-- ==== Sys2Proof/Word.lean ====
section
/-! DEFINITION. The word types of the HTU21D-IF block: 32-bit registers (R7, R52) and bus bytes (R58). -/

namespace Sys2Proof

/-- A register of the window, one admitted host access wide (R7, R52). -/
abbrev Word := BitVec 32

/-- A byte on the I2C bus (R58). -/
abbrev Byte := BitVec 8

end Sys2Proof
end

