-- ==== Sys2Proof/Machine/HostSyntax.lean ====
section
/-! DEFINITION. The host program notation of R82: what the host agent of R8 runs. Host variables and labels are
numbered (assumption 8). -/

namespace Sys2Proof.Machine

/-- The kinds of 60_exceptions.md R210. -/
inductive ErrKind
  | none
  | busOpenError
  | busCloseError
  | busIOError
  | deviceNotResetError
  | checksumError
  | closed
  | illegalCommand
  deriving DecidableEq, Repr

/-- A field `x[hi:lo]` of host variable x (R9, R82); the whole variable is `x[63:0]`. -/
structure HostField where
  var : Nat
  hi : Nat
  lo : Nat
  deriving DecidableEq, Repr

/-- What a condition compares a field with. -/
inductive HostTerm
  | num (n : Nat)
  | field (f : HostField)
  deriving DecidableEq, Repr

/-- `<cond>` of R82, which compares host variables and their fields: `=` or `!=`, the comparisons the spec's programs
use (assumption 8). -/
structure HostCond where
  lhs : HostField
  /-- true: the condition is `=`; false: it is `!=`. -/
  equal : Bool
  rhs : HostTerm
  deriving DecidableEq, Repr

/-- The value of a `RET` line (R82): a float, `ok`, or an error kind of R210. -/
inductive RetExpr
  /-- `RET ok` -/
  | ok
  /-- `RET x`: the 64-bit value of a host variable -/
  | value (x : Nat)
  /-- `RET Kind` -/
  | error (k : ErrKind)
  /-- `RET Kind(s.IOCODE)`: the IOCODE field of host variable s -/
  | errorIo (k : ErrKind) (s : Nat)
  /-- `RET error(s.ERR, s.IOCODE)` -/
  | errorOf (s : Nat)
  deriving DecidableEq, Repr

/-- One line of a host program (R82), and the assignment `x <- {hi, lo}` that RD64 of R83 expands to. -/
inductive HostLine
  | label (l : Nat)
  /-- `W <reg>, <value>`, the register by its offset -/
  | write (off : Nat) (v : Word)
  /-- `R <reg>, <var>` -/
  | read (off : Nat) (x : Nat)
  /-- `SLEEP <ms>` -/
  | sleep (ms : Nat)
  /-- `IF <cond> GOTO <label>` -/
  | ifGoto (c : HostCond) (l : Nat)
  | goto (l : Nat)
  /-- `x <- {hi, lo}` -/
  | pair (x hi lo : Nat)
  | ret (e : RetExpr)
  deriving DecidableEq, Repr

/-- The label a line carries, if it is a label line. -/
def HostLine.labelName : HostLine → Option Nat
  | .label l => some l
  | _ => none

/-- What a host procedure returned. -/
inductive HostResult
  | ok
  /-- a binary64 value by its encoding -/
  | value (bits : BitVec 64)
  /-- an error by its code and IOCODE -/
  | error (code io : BitVec 4)
  deriving DecidableEq, Repr

end Sys2Proof.Machine
end

