-- ==== Sys2Proof/Syntax.lean ====
section
/-! DEFINITION. The ten commands of the opcode map (R73), one constructor a row of spec/opcode_table.json. -/

namespace Sys2Proof

/-- A command of R73. The operands are those of R70 and R72: WBYTE, an unsigned byte, and RLEN, an unsigned count
of bytes. -/
inductive Instr
  /-- NOP (R175). -/
  | nop
  /-- OPEN (R100). -/
  | busOpen
  /-- CLOSE (R101). -/
  | busClose
  /-- XFER.W wb (R120). -/
  | xferW (wb : Byte)
  /-- XFER.WR wb, n (R121). -/
  | xferWR (wb : Byte) (n : BitVec 2)
  /-- XFER.R n (R122). -/
  | xferR (n : BitVec 2)
  /-- CRC.CHK (R143). -/
  | crcChk
  /-- CONV.T (R155). -/
  | convT
  /-- CONV.RH (R156). -/
  | convRH
  /-- CLRSTAT (R176). -/
  | clrstat
  deriving DecidableEq, Repr

end Sys2Proof
end

