-- ==== Sys2Proof/WellFormed.lean ====
section
/-! DEFINITION. Which command terms and which host programs are well formed. -/

namespace Sys2Proof

/-- A command an assembler accepts: RLEN is 1, 2 or 3 where the command reads (R80). -/
def Instr.wf : Instr → Bool
  | .nop | .busOpen | .busClose | .xferW _ | .crcChk | .convT | .convRH | .clrstat => true
  | .xferWR _ n => n != 0
  | .xferR n => n != 0

namespace Machine

/-- A field `v[hi:lo]` of a 64-bit host value (R9, R82). -/
def HostField.wf (f : HostField) : Bool := decide (f.lo ≤ f.hi) && decide (f.hi < 64)

/-- What a field is compared with exists. -/
def HostTerm.wf : HostTerm → Bool
  | .num _ => true
  | .field f => f.wf

/-- Both sides of a comparison exist (R82). -/
def HostCond.wf (c : HostCond) : Bool := c.lhs.wf && c.rhs.wf

/-- A line whose register offset lies in the window on a word boundary (R52, R59), whose condition's field exists
and whose jump target is a label of the program (R82). -/
def HostLine.wf (p : List HostLine) : HostLine → Bool
  | .write off _ => decide (off < 0x100) && decide (off % 4 = 0)
  | .read off _ => decide (off < 0x100) && decide (off % 4 = 0)
  | .ifGoto c l => c.wf && p.contains (.label l)
  | .goto l => p.contains (.label l)
  | .label _ | .sleep _ | .pair _ _ _ | .ret _ => true

/-- A host program whose lines are all well formed and whose labels are all different (R82). -/
def programWf (p : List HostLine) : Bool :=
  p.all (HostLine.wf p) && decide (p.filterMap HostLine.labelName).Nodup

end Machine
end Sys2Proof
end

