-- ==== Sys2Proof/Decode.lean ====
section
/-! DEFINITION. Decoding a command word (R70-R75), total on every word and rejecting by name, and the encoder of
R80. -/

namespace Sys2Proof

/-- Why a word is ILLEGAL (R74). The four reasons are those of 92_eei_decisions.md D8; all four complete with
ERR = 7 (R212), so the machine itself does not tell them apart. -/
inductive Illegal
  /-- RSV1 = v[7:4] or RSV2 = v[31:18] is not 0. -/
  | reservedBit
  /-- OP is 0xA-0xF. -/
  | reservedOp
  /-- WBYTE or RLEN is not 0 where the opcode does not use it. -/
  | unusedField
  /-- RLEN is 0 on XFER.WR or XFER.R. -/
  | zeroLength
  deriving DecidableEq, Repr

/-- OP = v[3:0] (R70). -/
def opField (v : Word) : BitVec 4 := v.extractLsb' 0 4
/-- RSV1 = v[7:4] (R70). -/
def rsv1Field (v : Word) : BitVec 4 := v.extractLsb' 4 4
/-- WBYTE = v[15:8] (R70, R72). -/
def wbyteField (v : Word) : Byte := v.extractLsb' 8 8
/-- RLEN = v[17:16] (R70, R72). -/
def rlenField (v : Word) : BitVec 2 := v.extractLsb' 16 2
/-- RSV2 = v[31:18] (R70). -/
def rsv2Field (v : Word) : BitVec 14 := v.extractLsb' 18 14

/-- A command without operands: legal when WBYTE and RLEN are both 0 (R74). -/
def decodePlain (i : Instr) (v : Word) : Except Illegal Instr :=
  if wbyteField v = 0 ∧ rlenField v = 0 then .ok i else .error .unusedField

/-- XFER.W: legal when RLEN is 0 (R74). -/
def decodeXferW (v : Word) : Except Illegal Instr :=
  if rlenField v = 0 then .ok (.xferW (wbyteField v)) else .error .unusedField

/-- XFER.WR: legal when RLEN is not 0 (R74). -/
def decodeXferWR (v : Word) : Except Illegal Instr :=
  if rlenField v = 0 then .error .zeroLength else .ok (.xferWR (wbyteField v) (rlenField v))

/-- XFER.R: legal when WBYTE is 0 and RLEN is not 0 (R74). -/
def decodeXferR (v : Word) : Except Illegal Instr :=
  if wbyteField v ≠ 0 then .error .unusedField
  else if rlenField v = 0 then .error .zeroLength
  else .ok (.xferR (rlenField v))

/-- `decode` of R74, total on every 32-bit word. -/
def decode (v : Word) : Except Illegal Instr :=
  if rsv1Field v ≠ 0 ∨ rsv2Field v ≠ 0 then .error .reservedBit
  else if opField v = 0x0 then decodePlain .nop v
  else if opField v = 0x1 then decodePlain .busOpen v
  else if opField v = 0x2 then decodePlain .busClose v
  else if opField v = 0x3 then decodeXferW v
  else if opField v = 0x4 then decodeXferWR v
  else if opField v = 0x5 then decodeXferR v
  else if opField v = 0x6 then decodePlain .crcChk v
  else if opField v = 0x7 then decodePlain .convT v
  else if opField v = 0x8 then decodePlain .convRH v
  else if opField v = 0x9 then decodePlain .clrstat v
  else .error .reservedOp

/-- The opcode map of R73, from command to OP. -/
def opcode : Instr → BitVec 4
  | .nop => 0x0
  | .busOpen => 0x1
  | .busClose => 0x2
  | .xferW _ => 0x3
  | .xferWR _ _ => 0x4
  | .xferR _ => 0x5
  | .crcChk => 0x6
  | .convT => 0x7
  | .convRH => 0x8
  | .clrstat => 0x9

/-- `enc` of R80. -/
def encode : Instr → Word
  | .nop => 0x0
  | .busOpen => 0x1
  | .busClose => 0x2
  | .xferW wb => (wb.setWidth 32 <<< 8) ||| 0x3
  | .xferWR wb n => (n.setWidth 32 <<< 16) ||| (wb.setWidth 32 <<< 8) ||| 0x4
  | .xferR n => (n.setWidth 32 <<< 16) ||| 0x5
  | .crcChk => 0x6
  | .convT => 0x7
  | .convRH => 0x8
  | .clrstat => 0x9

/-- What the decoder reads from a table row's word: a command is one 32-bit word, bit i of the number its bit i
(R70, R71). A row of another size is none of this block's. -/
def decodeTableWord (nbits w : Nat) : Option Instr :=
  if nbits = 32 then (decode (BitVec.ofNat 32 w)).toOption else none

end Sys2Proof
end

