-- ==== Sys2Proof/Config.lean ====
section
/-! DEFINITION. The implementation parameters of R7 that the spec leaves OPEN, and the free values: what the bus
partner answers when nothing in the state says it (R200, I4, I5). -/

namespace Sys2Proof

/-- The OPEN parameters of R7. "A model takes each `OPEN` parameter as an argument": step's only argument is the
state, so the state carries them, and no step changes them (assumption 1). -/
structure Config where
  /-- `BASE / 0x100`: BASE is a multiple of 0x100 (R7, I10). -/
  page : Nat
  /-- `ARB_POSSIBLE`: whether `tx` and `rx` can lose arbitration (R7, R111, I11). -/
  arbPossible : Bool
  /-- `F_SCL`, the bus clock frequency: used by no rule (R7, R250, I20). -/
  fScl : Nat
  deriving DecidableEq, Repr

/-- `BASE`, the host address of offset 0x00 (R7). -/
def Config.base (c : Config) : Nat := c.page * 0x100

/-- Free value: whether the partner's n-th unscripted answer leaves the acknowledge bit low (ACK). Nothing is
known of it (R104, R200, I4; assumption 3). -/
opaque Config.freeAck : Nat → Bool

/-- Free value: whether the partner's n-th unscripted answer makes the master lose arbitration, where
ARB_POSSIBLE allows it (R111, I11; assumption 3). -/
opaque Config.freeArb : Nat → Bool

/-- Free value: the byte of the partner's n-th unscripted answer (R104, R200, I5; assumption 3). -/
opaque Config.freeByte : Nat → Byte

end Sys2Proof
end

