-- ==== Sys2Proof/Machine/State.lean ====
section
/-! DEFINITION. The machine's state as plain data: the block's eight registers and engine (R20-R31), the bus, and
the agents of R8 (host and partner) with the order in which they move. -/

namespace Sys2Proof.Machine

/-- A step that stops the machine with a fault. The block itself never faults: an error of a command is a completion
with an ERR code (R12, R219). -/
inductive Fault
  /-- Raised by the host agent's jump lines: the host program has no line with the label it jumps to. R82 gives such a
  line no meaning. Safe: the run ends where the host goes on in no stated way (assumption 9). -/
  | undefinedLabel (l : Nat)
  deriving DecidableEq, Repr

/-- A step the model gives no meaning. -/
inductive Refusal
  /-- A command without a meaning in this model; raised by arms of exec only. Safe. -/
  | notModelled (mnemonic : String)
  /-- A host access to the window that is not 32 bits wide on a word boundary (R52, I3); raised by host accesses and by
  host program lines. "The block gives such an access no meaning". Safe. -/
  | unsupportedAccess
  /-- A host access that touches no byte of the window; raised by host accesses. It does not reach the block (R52,
  R59). Safe (assumption 10). -/
  | outsideWindow
  deriving DecidableEq, Repr

/-- CTRL's two fields (R22). -/
structure Ctrl where
  /-- CTRL[11:8] -/
  retry : BitVec 4
  /-- CTRL[6:0] -/
  addr : BitVec 7
  deriving DecidableEq, Repr

/-- STATUS's fields (R24). -/
structure Status where
  /-- STATUS[17:16] -/
  nbytes : BitVec 2
  /-- STATUS[15:12] -/
  iocode : BitVec 4
  /-- STATUS[11:8] -/
  err : BitVec 4
  /-- STATUS[4] -/
  ovr : Bool
  /-- STATUS[3] -/
  crcOk : Bool
  /-- STATUS[2], DONE -/
  isDone : Bool
  /-- STATUS[1], OPEN -/
  isOpen : Bool
  /-- STATUS[0] -/
  busy : Bool
  deriving DecidableEq, Repr

/-- `eng.phase` (R31). -/
inductive Phase
  | idle
  | run
  deriving DecidableEq, Repr

/-- `eng.step`: the next symbol kind to produce (R31). -/
inductive EngStep
  | start
  | addr
  | wdata
  | rdata
  | stop
  deriving DecidableEq, Repr

/-- Why the engine stands before a START or a STOP: the position in `run_xfer` (R105) that R31's variables do not
tell apart (assumption 4). -/
inductive Cause
  /-- a START that opens a segment -/
  | segment
  /-- a START that repeats a NACKed address byte -/
  | retry
  /-- the STOP of `emit P; succeed()` -/
  | success
  /-- the STOP of `emit P; complete(3, 1)` -/
  | addrNack
  /-- the STOP of `emit P; complete(3, 2)` -/
  | dataNack
  deriving DecidableEq, Repr

/-- The engine's hidden state (R31), and the script position `why`. -/
structure Eng where
  phase : Phase
  op : BitVec 4
  wbyte : Byte
  rlen : BitVec 2
  addr : BitVec 7
  retry : BitVec 4
  seg : BitVec 1
  idx : BitVec 2
  left : BitVec 4
  step : EngStep
  rx0 : Byte
  rx1 : Byte
  rx2 : Byte
  /-- the model's own field, implied by R105 (assumption 4) -/
  why : Cause
  deriving DecidableEq, Repr

/-- Block state (R20): the eight registers of R21 and the engine's hidden state. Reserved bits are not stored: they
read 0 (R21, R27, R28). RES64 is one value read as two registers (R29). -/
structure Block where
  ctrl : Ctrl
  status : Status
  cmd : Word
  data : BitVec 24
  raw : BitVec 16
  res64 : BitVec 64
  res32 : BitVec 32
  eng : Eng
  deriving DecidableEq, Repr

/-- An acknowledge bit (R76): ACK = 0, NACK = 1. -/
inductive Ack
  | ack
  | nack
  deriving DecidableEq, Repr

/-- What `tx` returns (R104). -/
inductive TxResult
  | ack
  | nack
  | arb
  deriving DecidableEq, Repr

/-- A bus symbol (R104). -/
inductive Symbol
  /-- S -/
  | start
  /-- Sr -/
  | repStart
  /-- P -/
  | stop
  /-- a byte sent, with what the partner answered -/
  | tx (b : Byte) (r : TxResult)
  /-- a byte received, with the acknowledge bit the master drove -/
  | rx (b : Byte) (m : Ack)
  /-- a byte in whose reception arbitration was lost -/
  | rxArb
  deriving DecidableEq, Repr

/-- What happens on the bus in order: a symbol, or an interval of which the host waited at least so many milliseconds
(R84). -/
inductive BusEvent
  | sym (y : Symbol)
  | quiet (ms : Nat)
  deriving DecidableEq, Repr

/-- The bus lines (R76, R231) as this block drives them, and the bus history, oldest first. The history is the model's
own field: no rule reads it (assumption 5). -/
structure Bus where
  /-- true: the master holds the bus; false: it has released SCL and SDA -/
  held : Bool
  trace : List BusEvent
  deriving DecidableEq, Repr

/-- One answer of the partner (R104, R200). An answer to `tx` is its `ack`, one to `rx` its `byte`, and either is an
arbitration loss where `arb` is set and ARB_POSSIBLE allows it (R111). -/
structure Answer where
  arb : Bool
  ack : Ack
  byte : Byte
  deriving DecidableEq, Repr

/-- The partner (R8): whether it holds SCL low (R106), the answers it has ready, oldest first, and how many answers
were free values (assumption 3). -/
structure Partner where
  holdsScl : Bool
  answers : List Answer
  drawn : Nat
  deriving DecidableEq, Repr

/-- The host (R8, R82): its program, the line it is at, its variables (sorted by number, no entry 0), what its
procedure returned, and the last word a read gave it. -/
structure HostAgent where
  program : List HostLine
  pc : Nat
  vars : List (Nat × BitVec 64)
  result : Option HostResult
  rdata : Word
  deriving DecidableEq, Repr

/-- A host access at a host address (R11, R52), whatever its width in bytes. -/
inductive Access
  | read (addr width : Nat)
  | write (addr width : Nat) (v : Word)
  deriving DecidableEq, Repr

/-- What the partner does in a step of its own (R8). -/
inductive PartnerAct
  | holdScl
  | releaseScl
  | answer (a : Answer)
  deriving DecidableEq, Repr

/-- Who moves next (R8): the interleaving of the agents, and the block's reset input (R230), as data. -/
inductive Turn
  /-- the host runs its program's next line -/
  | host
  /-- the host makes an access -/
  | access (a : Access)
  | engine
  | partner (p : PartnerAct)
  /-- the reset input is asserted -/
  | reset
  deriving DecidableEq, Repr

/-- The whole model's state: the parameters (R7), the block (R20), the bus, the agents (R8), and whose turn it is, the
next first (assumption 2). -/
structure State where
  cfg : Config
  blk : Block
  bus : Bus
  partner : Partner
  host : HostAgent
  turns : List Turn
  deriving DecidableEq, Repr

/-- CTRL after reset: 0x00000040 (R231). -/
def Ctrl.reset : Ctrl where
  retry := 0
  addr := 0x40

/-- STATUS after reset: 0x00000000 (R231). -/
def Status.reset : Status where
  nbytes := 0
  iocode := 0
  err := 0
  ovr := false
  crcOk := false
  isDone := false
  isOpen := false
  busy := false

/-- The engine after reset (R31, R231). -/
def Eng.reset : Eng where
  phase := .idle
  op := 0
  wbyte := 0
  rlen := 0
  addr := 0x40
  retry := 0
  seg := 0
  idx := 0
  left := 0
  step := .start
  rx0 := 0
  rx1 := 0
  rx2 := 0
  why := .segment

/-- Every register and every `eng` field at the value of R231. -/
def Block.reset : Block where
  ctrl := Ctrl.reset
  status := Status.reset
  cmd := 0
  data := 0
  raw := 0
  res64 := 0
  res32 := 0
  eng := Eng.reset

/-- The machine right after reset (R231): the block reset, the bus lines released, no history. The parameters are at
the spec's defaults where it gives one (ARB_POSSIBLE) and at 0 where it leaves them OPEN (assumption 1); the agents
stand at their beginning: no host program, no answer ready, no turn taken (assumptions 2, 3 and 7). -/
def State.reset : State where
  cfg := ⟨0, true, 0⟩
  blk := Block.reset
  bus := ⟨false, []⟩
  partner := ⟨false, [], 0⟩
  host := ⟨[], 0, [], none, 0⟩
  turns := []

end Sys2Proof.Machine
end

