-- ==== Sys2Proof/Machine/Operands.lean ====
section
/-! DEFINITION. The operands of the commands and of the host's accesses: the registers as the words a host reads, the
fields a host write carries, the bytes of the payload, the address byte of a segment, and the window's offsets. -/

namespace Sys2Proof.Machine

/-- A register of the window, or a reserved offset (R21). -/
inductive Reg
  | ctrl
  | status
  | cmd
  | data
  | raw
  | res64Lo
  | res64Hi
  | res32
  | reserved
  deriving DecidableEq, Repr

/-- The register at an offset of the window (R21); none where the offset is outside the window or not on a word
boundary (R52). -/
def Reg.ofOffset (off : Nat) : Option Reg :=
  if off % 4 ≠ 0 ∨ 0x100 ≤ off then none
  else if off = 0x00 then some .ctrl
  else if off = 0x04 then some .status
  else if off = 0x08 then some .cmd
  else if off = 0x0C then some .data
  else if off = 0x10 then some .raw
  else if off = 0x14 then some .res64Lo
  else if off = 0x18 then some .res64Hi
  else if off = 0x1C then some .res32
  else some .reserved

/-- The offset of a host access, or why it is refused (R52): 4 bytes at a multiple of 4 inside the window are
admitted, any other access that touches the window is unsupported. -/
def locate (base addr width : Nat) : Except Refusal Nat :=
  if width = 4 ∧ base ≤ addr ∧ addr < base + 0x100 ∧ (addr - base) % 4 = 0 then .ok (addr - base)
  else if base < addr + max width 1 ∧ addr < base + 0x100 then .error .unsupportedAccess
  else .error .outsideWindow

/-- A read of CTRL: `(RETRY << 8) | ADDR` (R23). -/
def Ctrl.word (c : Ctrl) : Word := (c.retry.setWidth 32 <<< 8) ||| c.addr.setWidth 32

/-- The fields a host write of CTRL carries: `v[11:8]` and `v[6:0]`; the other bits are ignored (R23). -/
def Ctrl.ofWord (v : Word) : Ctrl where
  retry := v.extractLsb' 8 4
  addr := v.extractLsb' 0 7

/-- A flag at a bit of a register. -/
def flagAt (f : Bool) (k : Nat) : Word := (BitVec.ofBool f).setWidth 32 <<< k

/-- A read of STATUS (R24). -/
def Status.word (t : Status) : Word :=
  (t.nbytes.setWidth 32 <<< 16) ||| (t.iocode.setWidth 32 <<< 12) ||| (t.err.setWidth 32 <<< 8) |||
    flagAt t.ovr 4 ||| flagAt t.crcOk 3 ||| flagAt t.isDone 2 ||| flagAt t.isOpen 1 ||| flagAt t.busy 0

/-- What a host write of DATA stores: `v & 0x00FFFFFF` (R27). -/
def dataOfWord (v : Word) : BitVec 24 := v.extractLsb' 0 24

/-- B0, the payload byte received first: DATA[23:16] (R27, R54). -/
def byte0 (d : BitVec 24) : Byte := d.extractLsb' 16 8
/-- B1: DATA[15:8] (R27, R54). -/
def byte1 (d : BitVec 24) : Byte := d.extractLsb' 8 8
/-- B2, the checksum byte: DATA[7:0] (R27, R54). -/
def byte2 (d : BitVec 24) : Byte := d.extractLsb' 0 8

/-- `{B0, B1, B2}`: the payload of three bytes, the first received highest (R54). -/
def payload (b0 b1 b2 : Byte) : BitVec 24 :=
  (b0.setWidth 24 <<< 16) ||| (b1.setWidth 24 <<< 8) ||| b2.setWidth 24

/-- The value at a register's offset, reserved bits and reserved offsets 0 (R50). -/
def Block.readReg (b : Block) : Reg → Word
  | .ctrl => b.ctrl.word
  | .status => b.status.word
  | .cmd => b.cmd
  | .data => b.data.setWidth 32
  | .raw => b.raw.setWidth 32
  | .res64Lo => b.res64.extractLsb' 0 32
  | .res64Hi => b.res64.extractLsb' 32 32
  | .res32 => b.res32
  | .reserved => 0

/-- `ab = (addr << 1) | rw`, with rw = 1 for a read segment (R77). -/
def addressByte (addr : BitVec 7) (isRead : Bool) : Byte := (addr.setWidth 8 <<< 1) ||| (BitVec.ofBool isRead).setWidth 8

/-- Whether segment `seg` of the command with opcode `op` is a read segment (R105). -/
def isReadSegment (op : BitVec 4) (seg : BitVec 1) : Bool := op == 0x5 || (op == 0x4 && seg == 1)

/-- Whether the command with opcode `op` has a segment after segment `seg` (R105). -/
def hasNextSegment (op : BitVec 4) (seg : BitVec 1) : Bool := op == 0x4 && seg == 0

/-- The acknowledge bit the master drives after received byte `idx` of `n`: ACK but after the last (R114). -/
def masterAck (idx n : BitVec 2) : Ack := if idx.toNat + 1 < n.toNat then .ack else .nack

/-- The payload `succeed()` writes to DATA: the first n received bytes, the others 0 (R112). -/
def receivedPayload (e : Eng) : BitVec 24 :=
  payload e.rx0 (if 2 ≤ e.rlen.toNat then e.rx1 else 0) (if e.rlen.toNat = 3 then e.rx2 else 0)

/-- `eng.rx[i] <- r` (R105). -/
def Eng.receive (e : Eng) (r : Byte) : Eng :=
  if e.idx = 0 then { e with rx0 := r }
  else if e.idx = 1 then { e with rx1 := r }
  else if e.idx = 2 then { e with rx2 := r }
  else e

/-- The STATUS.ERR codes (R210). -/
def ErrKind.code : ErrKind → BitVec 4
  | .none => 0
  | .busOpenError => 1
  | .busCloseError => 2
  | .busIOError => 3
  | .deviceNotResetError => 4
  | .checksumError => 5
  | .closed => 6
  | .illegalCommand => 7

end Sys2Proof.Machine
end

