-- ==== Sys2Proof/Machine/Flags.lean ====
section
/-! DEFINITION. The updates of STATUS's flags (R24, R34): what a launch clears, what a completion sets, and the sticky
flags. -/

namespace Sys2Proof.Machine

/-- What a launch does to STATUS: DONE, ERR, IOCODE and NBYTES cleared, BUSY set (R170). -/
def Status.launched (t : Status) : Status :=
  { t with isDone := false, err := 0, iocode := 0, nbytes := 0, busy := true }

/-- What `complete(err, io)` does to STATUS (R172). -/
def Status.completed (t : Status) (err io : BitVec 4) : Status :=
  { t with err := err, iocode := io, busy := false, isDone := true }

/-- OVR set by a write while busy (R171). -/
def Status.overrun (t : Status) : Status := { t with ovr := true }

/-- The sticky flags cleared by CLRSTAT (R176). -/
def Status.cleared (t : Status) : Status := { t with ovr := false, crcOk := false }

/-- CRC_OK written with the result of a CRC evaluation (R144). -/
def Status.withCrc (t : Status) (ok : Bool) : Status := { t with crcOk := ok }

/-- OPEN written by OPEN and CLOSE (R100, R101). -/
def Status.withOpen (t : Status) (o : Bool) : Status := { t with isOpen := o }

end Sys2Proof.Machine
end

