-- ==== Sys2Proof/Machine/Ops.lean ====
section
/-! DEFINITION. The operations the meanings share: launch, completion and errors (R170, R172, R210), the engine's
start (R102), the partner's answers and the bus symbols (R104), register writes (R23, R27, R171), block reset (R230)
and the host's variables (R82). -/

namespace Sys2Proof.Machine

/-- `complete(err, io)` ends the running command (R172). -/
def Block.complete (b : Block) (err io : BitVec 4) : Block :=
  { b with status := b.status.completed err io, eng := { b.eng with phase := .idle } }

/-- `complete(err, io)` on the whole state: nothing but the block changes (R172). -/
def State.complete (s : State) (err io : BitVec 4) : State := { s with blk := s.blk.complete err io }

/-- `raise <Kind>(info)`, short for `complete(code(Kind), info)` (R11). The block has no traps (R219): an error is this
completion, it saves nothing but ERR, IOCODE and CMD, and there is nothing to return from (R220). -/
def State.raise (s : State) (k : ErrKind) (io : BitVec 4) : State := s.complete k.code io

/-- The first effects of a launch: CMD stored, the flags of R170 written, the engine's phase RUN. -/
def Block.launched (b : Block) (v : Word) : Block :=
  { b with cmd := v, status := b.status.launched, eng := { b.eng with phase := .run } }

/-- The first effects of a launch on the whole state (R170). -/
def State.launched (s : State) (v : Word) : State := { s with blk := s.blk.launched v }

/-- What launch does for a bus command that passes the checks: the engine latches the command, the address and the
retry budget, and stands before its START (R102). -/
def Block.startEngine (b : Block) (op : BitVec 4) (wb : Byte) (n : BitVec 2) : Block :=
  { b with eng := { b.eng with
      phase := .run, op := op, wbyte := wb, rlen := n, addr := b.ctrl.addr, retry := b.ctrl.retry,
      step := .start, seg := 0, idx := 0, why := .segment } }

/-- Launch check 2 of R170, then R102: a bus command on a closed bus completes with Closed (R213), else the engine
starts. -/
def State.launchBus (s : State) (op : BitVec 4) (wb : Byte) (n : BitVec 2) : State :=
  if s.blk.status.isOpen then { s with blk := s.blk.startEngine op wb n } else s.raise .closed 0

/-- A host write of CTRL (R23): OVR while busy, nothing while open, else both fields. -/
def Block.writeCtrl (b : Block) (v : Word) : Block :=
  if b.status.busy then { b with status := b.status.overrun }
  else if b.status.isOpen then b
  else { b with ctrl := Ctrl.ofWord v }

/-- A host write of DATA (R27): OVR while busy, else the low 24 bits. -/
def Block.writeData (b : Block) (v : Word) : Block :=
  if b.status.busy then { b with status := b.status.overrun } else { b with data := dataOfWord v }

/-- A host write of CMD while busy: OVR and nothing else (R171). -/
def Block.overrun (b : Block) : Block := { b with status := b.status.overrun }

/-- The block reset (R230): every register and `eng` field at its reset value, the bus lines released, no symbol.
The parameters, the partner and the host are not reset (R233). -/
def State.blockReset (s : State) : State :=
  { s with blk := Block.reset, bus := { s.bus with held := false } }

/-- One symbol on the bus (R103); the master holds the bus afterwards where `held` is true. -/
def State.emit (s : State) (y : Symbol) (held : Bool) : State :=
  { s with bus := ⟨held, s.bus.trace ++ [.sym y]⟩ }

/-- The engine's hidden state replaced. -/
def State.setEng (s : State) (e : Eng) : State := { s with blk := { s.blk with eng := e } }

/-- The partner's next answer: the first it has ready, else a free value (R104, R200; assumption 3). -/
def State.answer (s : State) : Answer :=
  match s.partner.answers with
  | a :: _ => a
  | [] => ⟨Config.freeArb s.partner.drawn, if Config.freeAck s.partner.drawn then .ack else .nack,
      Config.freeByte s.partner.drawn⟩

/-- The state once that answer is used. -/
def State.useAnswer (s : State) : State :=
  match s.partner.answers with
  | _ :: rest => { s with partner := { s.partner with answers := rest } }
  | [] => { s with partner := { s.partner with drawn := s.partner.drawn + 1 } }

/-- What `tx` returns: ARB only where ARB_POSSIBLE, else the partner's acknowledge bit (R104, R111). -/
def State.txResult (s : State) : TxResult :=
  if s.cfg.arbPossible && s.answer.arb then .arb
  else match s.answer.ack with
    | .ack => .ack
    | .nack => .nack

/-- What `rx` returns: none for ARB, only where ARB_POSSIBLE, else the partner's byte (R104, R111). -/
def State.rxResult (s : State) : Option Byte :=
  if s.cfg.arbPossible && s.answer.arb then none else some s.answer.byte

/-- A host variable's value; one that no line has written is 0 (assumption 8). -/
def getVar : List (Nat × BitVec 64) → Nat → BitVec 64
  | [], _ => 0
  | (k, v) :: rest, x => if k = x then v else getVar rest x

/-- A host variable written, the list kept sorted and without an entry 0. -/
def setVar : List (Nat × BitVec 64) → Nat → BitVec 64 → List (Nat × BitVec 64)
  | [], x, w => if w = 0 then [] else [(x, w)]
  | (k, v) :: rest, x, w =>
    if x < k then (if w = 0 then (k, v) :: rest else (x, w) :: (k, v) :: rest)
    else if k = x then (if w = 0 then rest else (x, w) :: rest)
    else (k, v) :: setVar rest x w

end Sys2Proof.Machine
end

