-- ==== Sys2Proof/Machine/Control.lean ====
section
/-! DEFINITION. The control commands (43_control.md): NOP (R175) and CLRSTAT (R176). -/

namespace Sys2Proof.Machine

/-- NOP (R175): complete with no effect. -/
def execNop (s : State) : Host.Outcome State Fault Refusal := .next (s.complete 0 0)

/-- CLRSTAT (R176): OVR and CRC_OK cleared. -/
def execClrstat (s : State) : Host.Outcome State Fault Refusal :=
  .next (({ s with blk := { s.blk with status := s.blk.status.cleared } } : State).complete 0 0)

end Sys2Proof.Machine
end

