-- ==== Sys2Proof/Machine/Crc.lean ====
section
/-! DEFINITION. The CRC-8 validator (41_crc.md): the check of R141, the checksum of R146, and CRC.CHK (R143). -/

namespace Sys2Proof.Machine

/-- The accumulator constant of R140: 0x131 << 23. -/
def crcPoly : BitVec 32 := 0x98800000

/-- One iteration of R141: XOR first, where the top bit is set, then shift. -/
def crcIter (acc : BitVec 32) : BitVec 32 := (if acc.msb then acc ^^^ crcPoly else acc) <<< 1

/-- n iterations of R141. -/
def crcIters : Nat → BitVec 32 → BitVec 32
  | 0, acc => acc
  | n + 1, acc => crcIters n (crcIter acc)

/-- The accumulator of R141 after 24 iterations, the payload in bits 31:8. -/
def crcAcc (d : BitVec 24) : BitVec 32 := crcIters 24 (d.setWidth 32 <<< 8)

/-- `crc_ok` of R141: the accumulator is exactly zero. -/
def crcOk (d : BitVec 24) : Bool := crcAcc d == 0

/-- One bit step of R146. -/
def crc8Bit (c : Byte) : Byte := if c.msb then (c <<< 1) ^^^ 0x31 else c <<< 1

/-- n bit steps of R146. -/
def crc8Bits : Nat → Byte → Byte
  | 0, c => c
  | n + 1, c => crc8Bits n (crc8Bit c)

/-- `crc8(B0, B1)` of R146: the checksum byte of a valid payload. The block does not compute it. -/
def crc8 (b0 b1 : Byte) : Byte := crc8Bits 8 (crc8Bits 8 b0 ^^^ b1)

/-- A CRC evaluation writes its result to CRC_OK (R144). -/
def Block.checkCrc (b : Block) : Block := { b with status := b.status.withCrc (crcOk b.data) }

/-- CRC.CHK (R143): the validator on DATA[23:0], whatever NBYTES is; an invalid payload is no error. -/
def execCrcChk (s : State) : Host.Outcome State Fault Refusal :=
  .next (({ s with blk := s.blk.checkCrc } : State).complete 0 0)

end Sys2Proof.Machine
end

