-- ==== Sys2Proof/Machine/Float.lean ====
section
/-! DEFINITION. The number formats of R150: exact dyadic numbers, rounding to nearest, ties to even, and the IEEE-754
encodings of binary64 and binary32. -/

namespace Sys2Proof.Machine

/-- The exact number `num * 2^exp`. -/
structure Dy where
  num : Int
  exp : Int
  deriving DecidableEq, Repr

/-- The exact product. -/
def Dy.mul (x y : Dy) : Dy := ⟨x.num * y.num, x.exp + y.exp⟩

/-- The numerator of x over 2^e, for an e not above x's exponent. -/
def Dy.numAt (x : Dy) (e : Int) : Int := x.num * 2 ^ (x.exp - e).toNat

/-- The exact difference. -/
def Dy.sub (x y : Dy) : Dy := ⟨x.numAt (min x.exp y.exp) - y.numAt (min x.exp y.exp), min x.exp y.exp⟩

/-- Two dyadics are the same number. -/
def Dy.same (x y : Dy) : Prop := x.numAt (min x.exp y.exp) = y.numAt (min x.exp y.exp)

/-- x is at most y, as numbers. -/
def Dy.le (x y : Dy) : Prop := x.numAt (min x.exp y.exp) ≤ y.numAt (min x.exp y.exp)

/-- A binary format (R150): bits of precision, fraction bits counted, exponent bits. -/
structure Format where
  /-- fraction bits -/
  frac : Nat
  /-- exponent bits -/
  expo : Nat
  deriving DecidableEq, Repr

/-- 11 exponent bits with bias 1023 and a 52-bit fraction (R150). -/
def binary64 : Format := ⟨52, 11⟩
/-- 8 exponent bits with bias 127 and a 23-bit fraction (R150). -/
def binary32 : Format := ⟨23, 8⟩

/-- The exponent bias. -/
def Format.bias (f : Format) : Nat := 2 ^ (f.expo - 1) - 1

/-- The exponent of the last bit of the smallest normal number, and of every subnormal one. -/
def Format.minExp (f : Format) : Int := 1 - (f.bias : Int) - f.frac

/-- `n / 2^k` rounded to the nearest integer, a tie to the even one (R150). -/
def roundEven (n k : Nat) : Nat :=
  if 2 ^ k < 2 * (n % 2 ^ k) ∨ (2 * (n % 2 ^ k) = 2 ^ k ∧ (n / 2 ^ k) % 2 = 1) then n / 2 ^ k + 1 else n / 2 ^ k

/-- The exponent of the last bit the format keeps of a number of x's size. -/
def Format.lastExp (f : Format) (x : Dy) : Int := max (x.exp + x.num.natAbs.log2 - f.frac) f.minExp

/-- `fl64` and `fl32` of R150: the nearest value of the format, ties to an even last fraction bit. A number too large
for the format keeps its exponent here and is encoded as infinity. -/
def Format.fl (f : Format) (x : Dy) : Dy :=
  if f.lastExp x ≤ x.exp then x
  else ⟨x.num.sign * roundEven x.num.natAbs (f.lastExp x - x.exp).toNat, f.lastExp x⟩

/-- n's leading bits, as many as bit positions `k` down to 0 hold, n's top bit being bit `top`. -/
def leadingBits (n top k : Nat) : Nat := if top ≤ k then n * 2 ^ (k - top) else n / 2 ^ (top - k)

/-- The encoding of a value of the format: sign, biased exponent, fraction (R150). -/
def Format.bits (f : Format) (x : Dy) : Nat :=
  let n := x.num.natAbs
  let top := n.log2
  let sign := if x.num < 0 then 2 ^ (f.frac + f.expo) else 0
  let biased := x.exp + top + f.bias
  if n = 0 then 0
  else if biased < 1 then sign + leadingBits n top (x.exp + top - f.minExp).toNat
  else if 2 ^ f.expo - 1 ≤ biased then sign + (2 ^ f.expo - 1) * 2 ^ f.frac
  else sign + biased.toNat * 2 ^ f.frac + (leadingBits n top f.frac - 2 ^ f.frac)

/-- The number a finite encoding stands for (R150). -/
def Format.value (f : Format) (b : Nat) : Dy :=
  let frac := b % 2 ^ f.frac
  let biased := b / 2 ^ f.frac % 2 ^ f.expo
  let mag := if biased = 0 then frac else 2 ^ f.frac + frac
  ⟨if b / 2 ^ (f.frac + f.expo) % 2 = 1 then -(mag : Int) else mag, (max biased 1 : Nat) - 1 + f.minExp⟩

end Sys2Proof.Machine
end

