-- ==== Sys2Proof/Machine/Convert.lean ====
section
/-! DEFINITION. The ADC-to-float converter (42_convert.md): decode (R152), convert (R153), CONV.T and CONV.RH (R155,
R156). -/

namespace Sys2Proof.Machine

/-- K_DIV = 65536.0 (R151). -/
def kDiv : BitVec 64 := 0x40F0000000000000
/-- K_T1, the binary64 value nearest 175.72 (R151). -/
def kT1 : BitVec 64 := 0x4065F70A3D70A3D7
/-- K_T2, the binary64 value nearest 46.85 (R151). -/
def kT2 : BitVec 64 := 0x40476CCCCCCCCCCD
/-- K_H1 = 125.0 (R151). -/
def kH1 : BitVec 64 := 0x405F400000000000
/-- K_H2 = 6.0 (R151). -/
def kH2 : BitVec 64 := 0x4018000000000000

/-- The number a binary64 encoding stands for. -/
def value64 (b : BitVec 64) : Dy := binary64.value b.toNat

/-- `decode` of R152: the two data bytes with the two status bits masked off. -/
def decodeRaw (b0 b1 : Byte) : BitVec 16 := ((b0.setWidth 16 <<< 8) ||| b1.setWidth 16) &&& 0xFFFC

/-- `q = raw / 65536`, exact (R153): dividing by K_DIV = 2^16 changes the exponent only. -/
def quotient (raw : BitVec 16) : Dy := ⟨raw.toNat, -16⟩

/-- `r` of R153: divide, multiply with one rounding, subtract with one rounding; no fused multiply-add. -/
def measure (raw : BitVec 16) (k1 k2 : BitVec 64) : Dy :=
  binary64.fl (Dy.sub (binary64.fl (Dy.mul (quotient raw) (value64 k1))) (value64 k2))

/-- RES64 of R153. -/
def measure64 (raw : BitVec 16) (k1 k2 : BitVec 64) : BitVec 64 := BitVec.ofNat 64 (binary64.bits (measure raw k1 k2))

/-- RES32 of R153: one further rounding, from the binary64 r. -/
def measure32 (raw : BitVec 16) (k1 k2 : BitVec 64) : BitVec 32 :=
  BitVec.ofNat 32 (binary32.bits (binary32.fl (measure raw k1 k2)))

/-- The raw count of DATA (R152, R155). -/
def rawOf (d : BitVec 24) : BitVec 16 := decodeRaw (byte0 d) (byte1 d)

/-- RAW, RES64 and RES32 written together (R29, R153, R155). -/
def Block.convert (b : Block) (k1 k2 : BitVec 64) : Block :=
  { b with
    raw := rawOf b.data
    res64 := measure64 (rawOf b.data) k1 k2
    res32 := measure32 (rawOf b.data) k1 k2 }

/-- A CONV command with the constants k1 and k2 (R155, R156): CRC_OK written; where the check fails ChecksumError and
no result; else the results. -/
def State.convCommand (s : State) (k1 k2 : BitVec 64) : State :=
  if crcOk s.blk.data then ({ s with blk := s.blk.checkCrc.convert k1 k2 } : State).complete 0 0
  else ({ s with blk := s.blk.checkCrc } : State).raise .checksumError 0

/-- CONV.T (R155). -/
def execConvT (s : State) : Host.Outcome State Fault Refusal := .next (s.convCommand kT1 kT2)

/-- CONV.RH (R156). -/
def execConvRH (s : State) : Host.Outcome State Fault Refusal := .next (s.convCommand kH1 kH2)

end Sys2Proof.Machine
end

