-- ==== Sys2Proof/Machine/Engine.lean ====
section
/-! DEFINITION. The I2C master transaction engine (40_i2c_engine.md): OPEN and CLOSE (R100, R101), the launch of the
bus commands (R120-R122), and the engine's steps, one symbol each (R103-R115). -/

namespace Sys2Proof.Machine

/-- STATUS.OPEN written (R100, R101). -/
def State.setOpen (s : State) (o : Bool) : State :=
  { s with blk := { s.blk with status := s.blk.status.withOpen o } }

/-- OPEN (R100). -/
def execOpen (s : State) : Host.Outcome State Fault Refusal := .next ((s.setOpen true).complete 0 0)

/-- CLOSE (R101): Closed where the bus is not open (launch check 2 of R170). -/
def execClose (s : State) : Host.Outcome State Fault Refusal :=
  .next (if s.blk.status.isOpen then (s.setOpen false).complete 0 0 else s.raise .closed 0)

/-- XFER.W wb at launch (R102, R120): OP 0x3, RLEN 0. -/
def execXferW (wb : Byte) (s : State) : Host.Outcome State Fault Refusal := .next (s.launchBus 0x3 wb 0)

/-- XFER.WR wb, n at launch (R102, R121): OP 0x4. -/
def execXferWR (wb : Byte) (n : BitVec 2) (s : State) : Host.Outcome State Fault Refusal :=
  .next (s.launchBus 0x4 wb n)

/-- XFER.R n at launch (R102, R122): OP 0x5, WBYTE 0. -/
def execXferR (n : BitVec 2) (s : State) : Host.Outcome State Fault Refusal := .next (s.launchBus 0x5 0 n)

/-- The engine has an enabled step: it is RUN and the partner does not hold SCL low (R103, R106). -/
def State.engineEnabled (s : State) : Bool := s.blk.eng.phase == .run && !s.partner.holdsScl

/-- The START before a segment or a repeated address byte (R105): S where the transaction begins, Sr elsewhere; at a
segment's start the retry budget begins again (R110). -/
def State.engineStart (s : State) : State :=
  let e := s.blk.eng
  (s.emit (if e.seg = 0 ∧ e.why = .segment then .start else .repStart) true).setEng
    { e with left := if e.why = .segment then e.retry else e.left, step := .addr }

/-- Arbitration lost (R111): the lines released at once, no STOP, BusIOError with IOCODE 3. -/
def State.loseArbitration (s : State) (y : Symbol) : State := (s.useAnswer.emit y false).raise .busIOError 3

/-- The engine's state after an ACKed address byte: the segment's data phase (R105). A read of no byte, which no legal
command asks for, goes to its STOP. -/
def Eng.dataPhase (e : Eng) : Eng :=
  if isReadSegment e.op e.seg then
    (if e.rlen = 0 then { e with step := .stop, why := .success } else { e with idx := 0, step := .rdata })
  else { e with step := .wdata }

/-- The engine's state after a NACKed address byte: a retry while the budget lasts, else the STOP of IOCODE 1 (R108,
R110). -/
def Eng.addressNacked (e : Eng) : Eng :=
  if e.left = 0 then { e with step := .stop, why := .addrNack }
  else { e with left := e.left - 1, step := .start, why := .retry }

/-- The address phase (R105, R108). -/
def State.engineAddr (s : State) : State :=
  let e := s.blk.eng
  let ab := addressByte e.addr (isReadSegment e.op e.seg)
  match s.txResult with
  | .arb => s.loseArbitration (.tx ab .arb)
  | .ack => (s.useAnswer.emit (.tx ab .ack) true).setEng e.dataPhase
  | .nack => (s.useAnswer.emit (.tx ab .nack) true).setEng e.addressNacked

/-- The engine's state after an ACKed write byte: the next segment's START, or the STOP of success (R105). -/
def Eng.segmentDone (e : Eng) : Eng :=
  if hasNextSegment e.op e.seg then { e with seg := 1, step := .start, why := .segment }
  else { e with step := .stop, why := .success }

/-- The write data phase (R105, R109): a NACK is not retried. -/
def State.engineWdata (s : State) : State :=
  let e := s.blk.eng
  match s.txResult with
  | .arb => s.loseArbitration (.tx e.wbyte .arb)
  | .ack => (s.useAnswer.emit (.tx e.wbyte .ack) true).setEng e.segmentDone
  | .nack => (s.useAnswer.emit (.tx e.wbyte .nack) true).setEng { e with step := .stop, why := .dataNack }

/-- The engine's state after a received byte: the next byte, or the STOP of success (R105). -/
def Eng.byteDone (e : Eng) (r : Byte) : Eng :=
  if e.idx.toNat + 1 < e.rlen.toNat then { e.receive r with idx := e.idx + 1 }
  else { e.receive r with step := .stop, why := .success }

/-- The read data phase (R105, R114). -/
def State.engineRdata (s : State) : State :=
  let e := s.blk.eng
  match s.rxResult with
  | none => s.loseArbitration .rxArb
  | some r => (s.useAnswer.emit (.rx r (masterAck e.idx e.rlen)) true).setEng (e.byteDone r)

/-- What `succeed()` writes before it completes (R112): DATA and NBYTES for a command that reads. -/
def Block.deliver (b : Block) : Block :=
  if b.eng.op = 0x4 ∨ b.eng.op = 0x5 then
    { b with data := receivedPayload b.eng, status := { b.status with nbytes := b.eng.rlen } }
  else b

/-- `emit P` with the completion it belongs to, one step (R105): success, or BusIOError with IOCODE 1 or 2. -/
def State.engineStop (s : State) : State :=
  let t := s.emit .stop false
  match s.blk.eng.why with
  | .addrNack => t.raise .busIOError 1
  | .dataNack => t.raise .busIOError 2
  | .segment | .retry | .success => ({ t with blk := t.blk.deliver } : State).complete 0 0

/-- The engine's next symbol (R103, R105). -/
def State.engineSymbol (s : State) : State :=
  match s.blk.eng.step with
  | .start => s.engineStart
  | .addr => s.engineAddr
  | .wdata => s.engineWdata
  | .rdata => s.engineRdata
  | .stop => s.engineStop

/-- One engine step, where it has one enabled (R103); else nothing moves (R106). -/
def engineStep (s : State) : State := if s.engineEnabled then s.engineSymbol else s

/-- k engine steps. -/
def engineRun : Nat → State → State
  | 0, s => s
  | k + 1, s => engineRun k (engineStep s)

end Sys2Proof.Machine
end

