-- ==== Sys2Proof/Machine/Dispatch.lean ====
section
/-! DEFINITION. The meaning of each command: what its launch does once the word is decoded (the `case` of R170). -/

namespace Sys2Proof.Machine

def exec (i : Instr) (s : State) : Host.Outcome State Fault Refusal :=
  match i with
  | .nop => Sys2Proof.Machine.execNop s
  | .busOpen => Sys2Proof.Machine.execOpen s
  | .busClose => Sys2Proof.Machine.execClose s
  | .xferW wb => Sys2Proof.Machine.execXferW wb s
  | .xferWR wb n => Sys2Proof.Machine.execXferWR wb n s
  | .xferR n => Sys2Proof.Machine.execXferR n s
  | .crcChk => Sys2Proof.Machine.execCrcChk s
  | .convT => Sys2Proof.Machine.execConvT s
  | .convRH => Sys2Proof.Machine.execConvRH s
  | .clrstat => Sys2Proof.Machine.execClrstat s

end Sys2Proof.Machine
end

