-- ==== Sys2Proof/Machine/Registers.lean ====
section
/-! DEFINITION. The host's view of the block (20_memory.md): register reads and writes (R50, R51), the launch of a
command by a CMD write (R26, R170), and accesses by host address (R52). -/

namespace Sys2Proof.Machine

/-- A CMD write while BUSY = 0 (R170): the launch effects, then IllegalCommand (R212) or the decoded command. -/
def launch (v : Word) (s : State) : Host.Outcome State Fault Refusal :=
  match decode v with
  | .error _ => .next ((s.launched v).raise .illegalCommand 0)
  | .ok i => exec i (s.launched v)

/-- A CMD write (R26): a launch, or OVR while busy (R171). -/
def writeCmd (v : Word) (s : State) : Host.Outcome State Fault Refusal :=
  if s.blk.status.busy then .next { s with blk := s.blk.overrun } else launch v s

/-- `HostWrite` (R51), by register: the read-only registers and the reserved offsets ignore it, busy or not. -/
def hostWrite (r : Reg) (v : Word) (s : State) : Host.Outcome State Fault Refusal :=
  match r with
  | .ctrl => .next { s with blk := s.blk.writeCtrl v }
  | .cmd => writeCmd v s
  | .data => .next { s with blk := s.blk.writeData v }
  | .status | .raw | .res64Lo | .res64Hi | .res32 | .reserved => .next s

/-- `HostWrite(off, v)`; an offset off the word boundaries or outside the window is no admitted access (R52). -/
def hostWriteAt (off : Nat) (v : Word) (s : State) : Host.Outcome State Fault Refusal :=
  match Reg.ofOffset off with
  | some r => hostWrite r v s
  | none => .refused .unsupportedAccess

/-- What a read gives the host (R50): no block state changes. -/
def State.withRead (s : State) (v : Word) : State := { s with host := { s.host with rdata := v } }

/-- `HostRead(off)` (R50), the value given to the host. -/
def hostReadAt (off : Nat) (s : State) : Host.Outcome State Fault Refusal :=
  match Reg.ofOffset off with
  | some r => .next (s.withRead (s.blk.readReg r))
  | none => .refused .unsupportedAccess

/-- `MemRead` and `MemWrite` (R11, R52). -/
def hostAccess (a : Access) (s : State) : Host.Outcome State Fault Refusal :=
  match a with
  | .read addr width =>
    match locate s.cfg.base addr width with
    | .ok off => hostReadAt off s
    | .error r => .refused r
  | .write addr width v =>
    match locate s.cfg.base addr width with
    | .ok off => hostWriteAt off v s
    | .error r => .refused r

end Sys2Proof.Machine
end

