-- ==== Sys2Proof/Machine/HostRun.lean ====
section
/-! DEFINITION. The host agent (R8): one line of a host program a step (R82). -/

namespace Sys2Proof.Machine

/-- The field `v[hi:lo]` of a host value (R9). -/
def hostField (v : BitVec 64) (hi lo : Nat) : Nat := v.toNat / 2 ^ lo % 2 ^ (hi + 1 - lo)

/-- The value of a field of a host variable (R82). -/
def HostField.eval (f : HostField) (vars : List (Nat × BitVec 64)) : Nat := hostField (getVar vars f.var) f.hi f.lo

/-- The value of the other side of a comparison (R82). -/
def HostTerm.eval (t : HostTerm) (vars : List (Nat × BitVec 64)) : Nat :=
  match t with
  | .num n => n
  | .field f => f.eval vars

/-- The value of a condition (R82). -/
def HostCond.holds (c : HostCond) (vars : List (Nat × BitVec 64)) : Bool :=
  (c.lhs.eval vars == c.rhs.eval vars) == c.equal

/-- `s.ERR` of a STATUS value (R24, R82). -/
def errField (v : BitVec 64) : BitVec 4 := v.extractLsb' 8 4
/-- `s.IOCODE` of a STATUS value (R24, R82). -/
def iocodeField (v : BitVec 64) : BitVec 4 := v.extractLsb' 12 4

/-- The result a `RET` line gives (R82, R210). -/
def RetExpr.eval (e : RetExpr) (vars : List (Nat × BitVec 64)) : HostResult :=
  match e with
  | .ok => .ok
  | .value x => .value (getVar vars x)
  | .error k => .error k.code 0
  | .errorIo k x => .error k.code (iocodeField (getVar vars x))
  | .errorOf x => .error (errField (getVar vars x)) (iocodeField (getVar vars x))

/-- `{hi, lo}` of two 32-bit host values (R83). -/
def pairValue (hi lo : BitVec 64) : BitVec 64 := (hi <<< 32) ||| (lo.setWidth 32).setWidth 64

/-- The host's program counter. -/
def State.setHostPc (s : State) (pc : Nat) : State := { s with host := { s.host with pc := pc } }

/-- A host variable written. -/
def State.setHostVar (s : State) (x : Nat) (v : BitVec 64) : State :=
  { s with host := { s.host with vars := setVar s.host.vars x v } }

/-- A jump to a label of the host's program (R82). There is none: the host has no line to go on at (assumption 9).
DESIGN CHOICE: where several lines carry the label, which R82 does not speak of, the jump goes to the first of them
(assumption 23). -/
def jumpTo (l : Nat) (s : State) : Host.Outcome State Fault Refusal :=
  match s.host.program.findIdx? (· == .label l) with
  | some i => .next (s.setHostPc i)
  | none => .fault (.undefinedLabel l)

/-- SLEEP: an interval in which the host makes no access. The block does not see it (R84); the partner's premises
count it (R204). DESIGN CHOICE: the line is one step, and all its milliseconds stand in the history at that step, before
every symbol the engine produces after it, though R84 lets the engine step within the interval (assumption 24). -/
def State.pause (s : State) (ms : Nat) : State := { s with bus := { s.bus with trace := s.bus.trace ++ [.quiet ms] } }

/-- RET: the procedure's result; the host has no further line (R82). -/
def State.returnHost (s : State) (r : HostResult) : State :=
  { s with host := { s.host with result := some r, pc := s.host.program.length } }

/-- One line of the host's program (R82), the program counter past it. -/
def runLine (l : HostLine) (s : State) : Host.Outcome State Fault Refusal :=
  match l with
  | .label _ => .next s
  | .write off v => hostWriteAt off v s
  | .read off x =>
    match Reg.ofOffset off with
    | some r => .next ((s.withRead (s.blk.readReg r)).setHostVar x ((s.blk.readReg r).setWidth 64))
    | none => .refused .unsupportedAccess
  | .sleep ms => .next (s.pause ms)
  | .ifGoto c k => if c.holds s.host.vars then jumpTo k s else .next s
  | .goto k => jumpTo k s
  | .pair x hi lo => .next (s.setHostVar x (pairValue (getVar s.host.vars hi) (getVar s.host.vars lo)))
  | .ret e => .next (s.returnHost (e.eval s.host.vars))

/-- The host has a line to run. -/
def State.hostEnabled (s : State) : Bool := decide (s.host.pc < s.host.program.length)

/-- One host step (R8); a host past its last line does nothing. -/
def hostStep (s : State) : Host.Outcome State Fault Refusal :=
  match s.host.program[s.host.pc]? with
  | some l => runLine l (s.setHostPc (s.host.pc + 1))
  | none => .next s

end Sys2Proof.Machine
end

