-- ==== Sys2Proof/Machine/Agents.lean ====
section
/-! DEFINITION. The agents' moves and their order (R8): the partner's own steps (R106, R200), one turn, what moves when
no turn is set, and how a command word comes to be the next thing run. -/

namespace Sys2Proof.Machine

/-- A step of the partner (R8): it holds or releases SCL (R106, R207), or has one more answer ready (R200). -/
def partnerStep (p : PartnerAct) (s : State) : State :=
  match p with
  | .holdScl => { s with partner := { s.partner with holdsScl := true } }
  | .releaseScl => { s with partner := { s.partner with holdsScl := false } }
  | .answer a => { s with partner := { s.partner with answers := s.partner.answers ++ [a] } }

/-- One turn. -/
def runTurn (t : Turn) (s : State) : Host.Outcome State Fault Refusal :=
  match t with
  | .host => hostStep s
  | .access a => hostAccess a s
  | .engine => .next (engineStep s)
  | .partner p => .next (partnerStep p s)
  | .reset => .next s.blockReset

/-- What moves when no turn is set: the engine if it can, else the host (assumption 2). -/
def idleTurn (s : State) : Host.Outcome State Fault Refusal :=
  if s.engineEnabled then .next (engineStep s) else hostStep s

/-- The next turn taken off the list, or the idle turn. -/
def takeTurn (s : State) : Host.Outcome State Fault Refusal :=
  match s.turns with
  | t :: rest => runTurn t { s with turns := rest }
  | [] => idleTurn s

/-- A CMD write of v as the next turn: MemWrite(BASE + 0x08, 4, v). -/
def cmdWriteTurn (s : State) (v : Word) : Turn := .access (.write (s.cfg.base + 0x08) 4 v)

/-- The state in which the very next step launches v: the host's CMD write is the next turn, and no command is running
(R26; assumption 6). -/
def placeCommand (s : State) (v : Word) : State :=
  { s with
    turns := cmdWriteTurn s v :: s.turns
    blk := { s.blk with
      status := { s.blk.status with busy := false }
      eng := { s.blk.eng with phase := .idle } } }

end Sys2Proof.Machine
end

