-- ==== Sys2Proof/Machine/Step.lean ====
section
/-! DEFINITION. One step of the machine, and the placing of a command word where the next step takes it. -/

namespace Sys2Proof.Machine

/-- One step: the agent whose turn it is moves once (R8). -/
def step (s : State) : Host.Outcome State Fault Refusal := takeTurn s

/-- s with the command word w as the next thing run (assumption 6). A command is one 32-bit word (R71), so the bits
above bit 31 are no part of it. -/
def State.withFetchWord (s : State) (nbits w : Nat) : State := placeCommand s (BitVec.ofNat 32 (w % 2 ^ nbits))

end Sys2Proof.Machine
end

