-- ==== Sys2Proof/Machine/Lines.lean ====
section
/-! DEFINITION. The line-level forms of the bus symbols (R76): the levels of SCL and SDA a symbol goes through. One
engine step is one symbol (R103), so no rule of the machine reads them. -/

namespace Sys2Proof.Machine

/-- The levels of the two lines, true for high. -/
structure Levels where
  scl : Bool
  sda : Bool
  deriving DecidableEq, Repr

/-- One bit (R76): SDA set while SCL is low, stable while SCL is high. -/
def bitLevels (b : Bool) : List Levels := [⟨false, b⟩, ⟨true, b⟩, ⟨false, b⟩]

/-- An acknowledge bit: ACK = 0, NACK = 1 (R76). -/
def Ack.bit : Ack → Bool
  | .ack => false
  | .nack => true

/-- The bits of a byte on the bus, MSB first (R54, R76). -/
def byteBits (b : Byte) : List Bool := [7, 6, 5, 4, 3, 2, 1, 0].map b.getLsbD

/-- A byte with its acknowledge bit, nine bits (R58, R76). -/
def byteLevels (b : Byte) (a : Ack) : List Levels := (byteBits b ++ [a.bit]).flatMap bitLevels

/-- The levels a symbol goes through (R76). None for a byte in which arbitration was lost: the spec does not say at
which bit (R111). -/
def Symbol.levels : Symbol → Option (List Levels)
  | .start => some [⟨true, true⟩, ⟨true, false⟩, ⟨false, false⟩]
  | .repStart => some [⟨false, true⟩, ⟨true, true⟩, ⟨true, false⟩, ⟨false, false⟩]
  | .stop => some [⟨false, false⟩, ⟨true, false⟩, ⟨true, true⟩]
  | .tx b .ack => some (byteLevels b .ack)
  | .tx b .nack => some (byteLevels b .nack)
  | .tx _ .arb => none
  | .rx b m => some (byteLevels b m)
  | .rxArb => none

/-- SDA changes while SCL stays high, somewhere along the levels: a START (falling) or a STOP (rising), R76. -/
def sdaMoves : List Levels → List Bool
  | a :: b :: rest =>
    (if a.scl && b.scl && (a.sda != b.sda) then [b.sda] else []) ++ sdaMoves (b :: rest)
  | _ => []

/-- The bits a receiver samples: SDA at each rise of SCL (R76). -/
def sampled : List Levels → List Bool
  | a :: b :: rest => (if !a.scl && b.scl then [b.sda] else []) ++ sampled (b :: rest)
  | _ => []

end Sys2Proof.Machine
end

