-- ==== Sys2Proof/Machine/HostSequences.lean ====
section
/-! DEFINITION. The host sequences (44_host_sequences.md) as programs of R82, over the pseudo-instructions of R83. They
are duties of the host, not part of the block (R5, R181-R188). -/

namespace Sys2Proof.Machine

/-- The sensor command bytes, host parameters (R79, I21). -/
structure SensorCommands where
  softReset : Byte
  readUser : Byte
  trigT : Byte
  trigRH : Byte
  deriving DecidableEq, Repr

/-- The defaults of R79 (from general knowledge, the spec says; assumption 11). -/
def sensorDefaults : SensorCommands := ⟨0xFE, 0xE7, 0xF3, 0xF5⟩

/-- Host variables s, d, hi, lo and t (R83, R183). -/
def varS : Nat := 0
def varD : Nat := 1
def varHi : Nat := 2
def varLo : Nat := 3
def varT : Nat := 4

/-- `s.BUSY = 1` (R24). -/
def busyIs1 : HostCond := ⟨⟨varS, 0, 0⟩, true, .num 1⟩
/-- `s.ERR = e` or `s.ERR != e` (R24). -/
def errIs (equal : Bool) (e : Nat) : HostCond := ⟨⟨varS, 11, 8⟩, equal, .num e⟩
/-- `d[23:16] != 0x02` (R183). -/
def userNot02 : HostCond := ⟨⟨varD, 23, 16⟩, false, .num 0x02⟩

/-- `WAITDONE` (R83), its label `wd` numbered by its place. -/
def waitDone (wd : Nat) : List HostLine := [.label wd, .read 0x04 varS, .ifGoto busyIs1 wd]

/-- `C <command>` (R83). -/
def commandLines (i : Instr) (wd : Nat) : List HostLine := .write 0x08 (encode i) :: waitDone wd

/-- `SOFTRESET`, `RDUSER`, `TRIG.T`, `TRIG.RH` and `FETCH` (R83). -/
def softResetLines (c : SensorCommands) (wd : Nat) : List HostLine := commandLines (.xferW c.softReset) wd
def readUserLines (c : SensorCommands) (wd : Nat) : List HostLine := commandLines (.xferWR c.readUser 1) wd
def trigTLines (c : SensorCommands) (wd : Nat) : List HostLine := commandLines (.xferWR c.trigT 3) wd
def trigRHLines (c : SensorCommands) (wd : Nat) : List HostLine := commandLines (.xferWR c.trigRH 3) wd
def fetchLines (wd : Nat) : List HostLine := commandLines (.xferR 3) wd

/-- `RD64 <var>` (R83). -/
def read64Lines (x : Nat) : List HostLine := [.read 0x18 varHi, .read 0x14 varLo, .pair x varHi varLo]

/-- The labels of the sequences. -/
def lblErr : Nat := 100
def lblNotReset : Nat := 101
def lblValidate : Nat := 102
def lblCrcErr : Nat := 103
def lblFail : Nat := 104

/-- `open` of R180: CTRL written before OPEN; the word's [11:8] is the host's retry budget. -/
def openProgram (ctrl : Word) : List HostLine := .write 0x00 ctrl :: (commandLines .busOpen 0).append [.ret .ok]

/-- `close` of R180. -/
def closeProgram : List HostLine :=
  (commandLines .busClose 0).append [.ifGoto (errIs false 0) lblErr, .ret .ok, .label lblErr, .ret (.error .closed)]

/-- The end of `init` (R183): the byte read back compared with 0x02. -/
def initCheck : List HostLine :=
  [.ifGoto (errIs false 0) lblErr, .read 0x0C varD, .ifGoto userNot02 lblNotReset, .ret .ok,
    .label lblErr, .ret (.errorIo .busIOError varS), .label lblNotReset, .ret (.error .deviceNotResetError)]

/-- `init` of R181-R183: soft reset, at least 15 ms, the user register read back and compared with 0x02. -/
def initProgram (c : SensorCommands) : List HostLine :=
  (softResetLines c 0).append
    (.ifGoto (errIs false 0) lblErr :: .sleep 15 :: (readUserLines c 1).append initCheck)

/-- The slow path of a reading (R186): the delay, then the bare read; and the label of the fast path's end. -/
def slowPath (delay : Nat) : List HostLine :=
  .sleep delay :: (fetchLines 1).append [.ifGoto (errIs false 0) lblFail, .label lblValidate]

/-- The end of a reading (R187, R188): validate and convert, then return the value as it is. -/
def validatePath (conv : Instr) : List HostLine :=
  (commandLines conv 2).append (.ifGoto (errIs true 5) lblCrcErr :: (read64Lines varT).append
    [.ret (.value varT), .label lblCrcErr, .ret (.error .checksumError), .label lblFail, .ret (.errorOf varS)])

/-- A reading (R185-R188) with its trigger, its maximum conversion delay and its conversion. -/
def readProgram (trigger : List HostLine) (delay : Nat) (conv : Instr) : List HostLine :=
  trigger.append (.ifGoto (errIs true 0) lblValidate :: .ifGoto (errIs false 3) lblFail ::
    (slowPath delay).append (validatePath conv))

/-- The temperature reading: 50 ms, CONV.T (R185-R187). -/
def readTemperature (c : SensorCommands) : List HostLine := readProgram (trigTLines c 0) 50 .convT

/-- The humidity reading: 16 ms, CONV.RH (R185-R187). -/
def readHumidity (c : SensorCommands) : List HostLine := readProgram (trigRHLines c 0) 16 .convRH

/-- The host begins a program: its first line, no result yet. -/
def State.withProgram (s : State) (p : List HostLine) : State :=
  { s with host := { s.host with program := p, pc := 0, result := none } }

end Sys2Proof.Machine
end

