-- ==== Sys2Proof/Machine/Sensor.lean ====
section
/-! DEFINITION. What the source says of a conforming sensor (45_bus_partner.md), as named premises a claim may take.
They are no limits of the machine: its partner answers anything (R200). A premise speaks of the answer the partner gives
next in a state; a claim about a run takes it in every state of the run. What the sensor was told is read from the bus
history (assumption 13). -/

namespace Sys2Proof.Machine

/-- The sensor's 7-bit address (R2, R201). -/
def sensorAddress : BitVec 7 := 0x40

/-- The maximum conversion latency after a trigger, in milliseconds: 50 for temperature, 16 for humidity (R204). None
for a byte that is no no-hold trigger. -/
def maxLatency (c : SensorCommands) (command : Byte) : Option Nat :=
  if command = c.trigT then some 50 else if command = c.trigRH then some 16 else none

/-- What the sensor's next read gives, as far as the source says. -/
inductive Asked
  /-- the source does not say: every answer stays a draw (R209) -/
  | nothing
  /-- the user register: the sensor took RDUSER's byte in this transaction (R202) -/
  | user
  /-- the user register, of which one byte was received, 0x02: the read back of init (R183) -/
  | confirmed
  /-- the user register, asked for while a conversion may run: no premise (R203 against R202) -/
  | busyUser
  /-- the result of the last trigger, not read out yet (R203, R205) -/
  | result
  /-- that result, its read address taken: its bytes follow (R205) -/
  | sending
  deriving DecidableEq, Repr

/-- What the bus history tells of the sensor. -/
structure Heard where
  /-- the next byte sent is an address byte -/
  atAddress : Bool
  /-- the sensor took the last address byte -/
  selected : Bool
  /-- bytes received since that address byte -/
  sent : Nat
  /-- a transaction runs: no STOP and no lost arbitration since its START -/
  running : Bool
  /-- the transaction in which the sensor took its last soft reset or trigger still runs -/
  telling : Bool
  /-- the sensor took a soft reset -/
  wasReset : Bool
  /-- since then something happened of which the source does not say what it leaves in the sensor -/
  strange : Bool
  /-- a block reset cut a transaction off since then: the partner may be left in the middle of it (D48) -/
  cut : Bool
  /-- init has succeeded since then: after the wait RDUSER read one byte back, 0x02 (R183, R184) -/
  initDone : Bool
  /-- the last trigger the sensor took, outside the reset window, since then -/
  trigger : Option Byte
  /-- how many triggers the sensor took outside a reset window: the number of the last conversion -/
  conversions : Nat
  /-- milliseconds the host waited since the transaction of the last of that soft reset and that trigger ended -/
  waited : Nat
  asked : Asked
  deriving DecidableEq, Repr

/-- A sensor of which nothing was heard (D49). -/
def Heard.unheard : Heard := ⟨false, false, 0, false, false, false, false, false, false, none, 0, 0, .nothing⟩

/-- The sensor is inside its 15 ms reset window: no premise is available there (R202). The window ends only with the
wait: nothing the sensor takes inside it, but another soft reset, moves it. -/
def Heard.inResetWindow (h : Heard) : Bool := h.wasReset && h.trigger.isNone && decide (h.waited < 15)

/-- A conversion was triggered and its maximum latency has passed (R204). -/
def Heard.conversionOver (c : SensorCommands) (h : Heard) : Bool :=
  match h.trigger.bind (maxLatency c) with
  | some ms => decide (ms ≤ h.waited)
  | none => false

/-- A conversion may still run: a trigger was taken and its maximum latency has not passed (R203, R204). -/
def Heard.mayConvert (c : SensorCommands) (h : Heard) : Bool := h.trigger.isSome && !h.conversionOver c

/-- A soft reset was taken, and since then only what the source describes (R202, R209). -/
def Heard.known (h : Heard) : Bool := h.wasReset && !h.strange

/-- The premises bind the sensor's answers: init has succeeded and no reset window is open. Elsewhere every answer stays a
draw: at power-on, before a successful init, in the window, and after a block reset that cut a transaction off (R202,
R209, R233; D48, D49, I7). -/
def Heard.settled (h : Heard) : Bool := h.initDone && !h.inResetWindow

/-- The sensor takes a soft reset: its window begins (R202), and init is to be done (again). -/
def Heard.takeReset (h : Heard) : Heard :=
  { h with
    telling := true, wasReset := true, strange := false, cut := false, initDone := false, trigger := none, waited := 0
    asked := .nothing }

/-- The sensor takes a no-hold trigger: a conversion begins (R203); of its result something is said only once init has
succeeded (D49). -/
def Heard.takeTrigger (h : Heard) (b : Byte) : Heard :=
  { h with
    telling := true, trigger := some b, conversions := h.conversions + 1, waited := 0
    asked := if h.initDone then .result else .nothing }

/-- The sensor takes a byte inside its reset window, which is no success (R202): a soft reset only makes the window begin
again, and clears nothing; of what another byte but RDUSER's leaves in the sensor nothing is said. -/
def Heard.takeInWindow (c : SensorCommands) (h : Heard) (b : Byte) : Heard :=
  if b = c.softReset then { h with telling := true, waited := 0, asked := .nothing }
  else { h with asked := .nothing, strange := h.strange || b != c.readUser }

/-- The sensor takes a byte written to it. -/
def Heard.takeByte (c : SensorCommands) (h : Heard) (b : Byte) : Heard :=
  if h.inResetWindow then h.takeInWindow c b
  else if b = c.softReset then h.takeReset
  else if (maxLatency c b).isSome then h.takeTrigger b
  else if b = c.readUser then { h with asked := if h.mayConvert c then .busyUser else .user }
  else { h with asked := .nothing, strange := true }

/-- The transaction ends: the waits count from here (R240). -/
def Heard.endTransaction (h : Heard) : Heard :=
  { h with running := false, telling := false, waited := if h.telling then 0 else h.waited }

/-- A STOP; after the read back of 0x02 init has succeeded (R183, R184). -/
def Heard.stop (h : Heard) : Heard :=
  { h.endTransaction with initDone := h.initDone || h.asked == .confirmed }

/-- Arbitration lost: another master has the bus, and what it does there is not heard. -/
def Heard.loseBus (h : Heard) : Heard :=
  { h.endTransaction with atAddress := false, selected := false, strange := true, asked := .nothing }

/-- A block reset inside a transaction: no STOP, and the partner's state is a draw (R230, D48). Init is to be done again
(R193). -/
def Heard.cutOff (h : Heard) : Heard :=
  { h with
    atAddress := false, selected := false, running := false, telling := false, strange := true, cut := true
    initDone := false, asked := .nothing }

/-- The first byte of the user register received. 0x02 from a sensor that was reset is init's read back (R183); any other
value means that the sensor is in an unknown state (R183, R202), and only a new soft reset ends that. -/
def Heard.readBack (h : Heard) (b : Byte) : Heard :=
  if b = 0x02 then { h with asked := if h.asked == .user && h.known then .confirmed else .nothing }
  else { h with strange := true, initDone := false, asked := .nothing }

/-- A byte received. Init reads one byte of the user register (R183), so a second one is no read back of init. -/
def Heard.receive (h : Heard) (b : Byte) : Heard :=
  let t :=
    match h.asked with
    | .user | .busyUser => if h.selected && h.sent == 0 then h.readBack b else h
    | .confirmed => { h with asked := .nothing }
    | .nothing | .result | .sending => h
  { t with sent := h.sent + 1 }

/-- An address byte answered. A read address the sensor takes with a result pending begins to read it out (R205). -/
def Heard.takeAddress (h : Heard) (b : Byte) (r : TxResult) : Heard :=
  let mine := b.extractLsb' 1 7 == sensorAddress && r == .ack
  { h with
    atAddress := false
    selected := mine
    sent := 0
    asked := if mine && b.getLsbD 0 && h.asked == .result then .sending else h.asked }

/-- What a new transaction keeps: a pending result (R205). -/
def Asked.keep : Asked → Asked
  | .result => .result
  | .nothing | .user | .confirmed | .busyUser | .sending => .nothing

/-- A START. -/
def Heard.begin (h : Heard) : Heard :=
  { h with atAddress := true, selected := false, running := true, telling := false, asked := h.asked.keep }

/-- One event of the history heard. A START while a transaction runs shows that a block reset cut that one off: it ended
without a STOP and without a lost arbitration (R230). -/
def Heard.next (c : SensorCommands) (h : Heard) : BusEvent → Heard
  | .sym .start => if h.running then h.cutOff.begin else h.begin
  | .sym .repStart => { h with atAddress := true, selected := false }
  | .sym (.tx _ .arb) => h.loseBus
  | .sym (.tx b .ack) =>
    if h.atAddress then h.takeAddress b .ack else if h.selected then h.takeByte c b else h
  | .sym (.tx b .nack) => if h.atAddress then h.takeAddress b .nack else h
  | .sym .stop => h.stop
  | .sym (.rx b _) => h.receive b
  | .sym .rxArb => h.loseBus
  | .quiet ms => { h with waited := h.waited + ms }

/-- The history heard from its beginning. -/
def heard (c : SensorCommands) (trace : List BusEvent) : Heard := trace.foldl (Heard.next c) Heard.unheard

/-- What a state tells of the sensor: its history, and that a transaction without an end on a bus the master has released
was cut off (R230). -/
def State.heard (c : SensorCommands) (s : State) : Heard :=
  let h := Machine.heard c s.bus.trace
  if h.running && !s.bus.held then h.cutOff else h

/-- The length of the history: the place of the next symbol in it. -/
def State.place (s : State) : Nat := s.bus.trace.length

/-- What a conforming sensor has inside it, and what corrupts its transfers: unknown to the block, so a claim takes it as
an argument. A conversion goes by its number, a moment by the length of the history. -/
structure SensorLife where
  /-- the moment from which the result of a conversion is ready; it stays ready until it is read out (R203, R205) -/
  readyAt : Nat → Nat
  /-- the three bytes the sensor sends of a conversion, one value however late it is read (R205) -/
  result : Nat → BitVec 24
  /-- what corrupts the byte received at a moment: 0 where the transfer is not corrupted (R205, R208) -/
  noise : Nat → Byte

/-- The result of the last trigger is ready. -/
def SensorLife.ready (l : SensorLife) (c : SensorCommands) (s : State) : Bool :=
  decide (l.readyAt (s.heard c).conversions ≤ s.place)

/-- The payload the sensor sends of its last conversion. -/
def SensorLife.payload (l : SensorLife) (c : SensorCommands) (s : State) : BitVec 24 :=
  l.result (s.heard c).conversions

/-- The engine's next symbol is the address byte of a read segment. -/
def State.atReadAddress (s : State) : Bool :=
  s.blk.eng.step == .addr && isReadSegment s.blk.eng.op s.blk.eng.seg

/-- The engine's next symbol is an address byte with the sensor's address. -/
def State.atSensor (s : State) : Bool := s.blk.eng.step == .addr && s.blk.eng.addr == sensorAddress

/-- Premise of R201: an address with no device is NACKed, and no other master takes the bus. It speaks of no state of the
sensor, so it does not wait for init. -/
def AbsentIsNacked (c : SensorCommands) (s : State) : Prop :=
  (s.heard c).inResetWindow = false → (s.heard c).cut = false → s.blk.eng.step = .addr →
    s.blk.eng.addr ≠ sensorAddress → s.answer.ack = .nack ∧ s.answer.arb = false

/-- Premise of R201: the sensor answers at its address. Once init has succeeded it ACKs its write address, and the read
address of RDUSER while its state is known; of the read address of a result R203 and R205 speak, of any other no rule
(R209). -/
def AnswersAtItsAddress (c : SensorCommands) (s : State) : Prop :=
  (s.heard c).settled = true → s.atSensor = true →
    (s.atReadAddress = false ∨ ((s.heard c).asked = .user ∧ (s.heard c).known = true)) →
    s.answer.ack = .ack ∧ s.answer.arb = false

/-- Premise, R201 read widely (assumption 13): the sensor that took its write address takes the four command bytes the
source sends it, once init has succeeded. R203 and R202 speak of a byte that was ACKed, so they do not need it. -/
def TakesItsCommands (c : SensorCommands) (s : State) : Prop :=
  (s.heard c).settled = true → s.blk.eng.step = .wdata → (s.heard c).selected = true →
    s.blk.eng.wbyte ∈ [c.softReset, c.readUser, c.trigT, c.trigRH] →
    s.answer.ack = .ack ∧ s.answer.arb = false

/-- Premise of R202, the one that init itself needs (R183), so it does not wait for init's success: a sensor that took a
soft reset, its 15 ms past and nothing strange since, sends 0x02 as its user register, the one byte of RDUSER; a corrupted
transfer apart (R208). -/
def UserRegisterReset (c : SensorCommands) (l : SensorLife) (s : State) : Prop :=
  (s.heard c).inResetWindow = false → (s.heard c).known = true → s.blk.eng.step = .rdata →
    (s.heard c).selected = true → (s.heard c).asked = .user → (s.heard c).sent = 0 →
    s.answer.byte = 0x02 ^^^ l.noise s.place ∧ s.answer.arb = false

/-- Premise of R203: a sensor that ACKed a no-hold trigger NACKs its read address while the result is not ready.
Like the others below it is silent before init has succeeded (D49). -/
def NotReadyIsNacked (c : SensorCommands) (l : SensorLife) (s : State) : Prop :=
  (s.heard c).settled = true → s.atSensor = true → s.atReadAddress = true → (s.heard c).asked = .result →
    l.ready c s = false → s.answer.ack = .nack

/-- Premise of R204: a result not read out yet is ready once the maximum latency has passed. -/
def LatencyBounded (c : SensorCommands) (l : SensorLife) (s : State) : Prop :=
  (s.heard c).asked = .result → (s.heard c).conversionOver c = true → l.ready c s = true

/-- Premise of R205, the address: the sensor ACKs its read address when a result is ready, and no other master takes the
bus. -/
def ReadyIsAcked (c : SensorCommands) (l : SensorLife) (s : State) : Prop :=
  (s.heard c).settled = true → s.atSensor = true → s.atReadAddress = true → (s.heard c).asked = .result →
    l.ready c s = true → s.answer.ack = .ack ∧ s.answer.arb = false

/-- Premise of R205, the format: the result read out is the conversion's three bytes, high byte first, a corrupted
transfer apart (R208); their checksum, as the sensor sends it, is valid (R141); no other master takes the bus. -/
def ResultFormat (c : SensorCommands) (l : SensorLife) (s : State) : Prop :=
  (s.heard c).settled = true → s.blk.eng.step = .rdata → (s.heard c).selected = true →
    (s.heard c).asked = .sending → (s.heard c).sent < 3 →
    crcOk (l.payload c s) = true ∧ s.answer.arb = false ∧
      s.answer.byte =
        (if (s.heard c).sent = 0 then byte0 (l.payload c s)
          else if (s.heard c).sent = 1 then byte1 (l.payload c s) else byte2 (l.payload c s)) ^^^ l.noise s.place

/-- The premises of R201 to R205 together: the partner's next answer is a conforming sensor's. -/
structure Conforms (c : SensorCommands) (l : SensorLife) (s : State) : Prop where
  absent : AbsentIsNacked c s
  address : AnswersAtItsAddress c s
  register : UserRegisterReset c l s
  notReady : NotReadyIsNacked c l s
  latency : LatencyBounded c l s
  ready : ReadyIsAcked c l s
  format : ResultFormat c l s

/-- The measurement type the sample's status bit 1 stands for on the HTU21D: true for humidity (R206, I18). No rule of
the block reads it. -/
def measuresHumidity (d : BitVec 24) : Bool := (byte1 d).getLsbD 1

/-- Premise of R206, from general knowledge (I18): the result's status bit tells which trigger it answers. -/
def StatusTellsTheType (c : SensorCommands) (l : SensorLife) (s : State) : Prop :=
  ((s.heard c).asked = .result ∨ (s.heard c).asked = .sending) →
    measuresHumidity (l.payload c s) = ((s.heard c).trigger == some c.trigRH)

/-- Whether the partner holds SCL once the listed turns are taken, where it holds it now or not (R106). -/
def sclAfter (holds : Bool) : List Turn → Bool
  | [] => holds
  | .partner .holdScl :: rest => sclAfter true rest
  | .partner .releaseScl :: rest => sclAfter false rest
  | .partner (.answer _) :: rest => sclAfter holds rest
  | .host :: rest => sclAfter holds rest
  | .access _ :: rest => sclAfter holds rest
  | .engine :: rest => sclAfter holds rest
  | .reset :: rest => sclAfter holds rest

/-- Premise of R207: the partner releases SCL within finite time, however often and however long it holds it before. The
listed turns are every move it makes, and a list is finite. -/
def ReleasesScl (s : State) : Prop := sclAfter s.partner.holdsScl s.turns = false

/-- A partner that never stretches the clock: it does not hold SCL, now or in a turn to come. A special case of
`ReleasesScl`. -/
def NeverStretches (s : State) : Prop := s.partner.holdsScl = false ∧ Turn.partner .holdScl ∉ s.turns

end Sys2Proof.Machine
end

