-- ==== Sys2Proof/Safety.lean ====
section
/-! DEFINITION. What claims about the machine are stated in: the invariant of every run, the host's duties, and the
transaction a bus command puts on the bus. -/

namespace Sys2Proof.Machine

/-- The completion codes the block can show (R24, R211, R216): IOCODE is 0 but beside ERR = 3, and 3 only where
ARB_POSSIBLE. -/
def outcomeLegal (arbPossible : Bool) (err io : BitVec 4) : Prop :=
  (err = 0 ∧ io = 0) ∨ (err = 3 ∧ (io = 1 ∨ io = 2 ∨ (io = 3 ∧ arbPossible = true))) ∨
    ((err = 5 ∨ err = 6 ∨ err = 7) ∧ io = 0)

/-- The operands latched are those of a legal bus command (R74, R102). -/
def Eng.operandsLegal (e : Eng) : Prop :=
  (e.op = 0x3 ∧ e.rlen = 0) ∨ (e.op = 0x4 ∧ e.rlen ≠ 0) ∨ (e.op = 0x5 ∧ e.rlen ≠ 0 ∧ e.wbyte = 0)

/-- The engine stands at a place of the script of R105. -/
def Eng.placed (e : Eng) : Prop :=
  e.operandsLegal ∧ (e.seg = 1 → e.op = 0x4) ∧
    match e.step with
    | .start => e.why = .segment ∨ (e.why = .retry ∧ e.left.toNat < e.retry.toNat)
    | .addr => (e.why = .segment ∨ e.why = .retry) ∧ e.left.toNat ≤ e.retry.toNat
    | .wdata => isReadSegment e.op e.seg = false
    | .rdata => isReadSegment e.op e.seg = true ∧ e.idx.toNat < e.rlen.toNat
    | .stop => (e.why = .success ∧ hasNextSegment e.op e.seg = false) ∨ e.why = .addrNack ∨
        (e.why = .dataNack ∧ isReadSegment e.op e.seg = false)

/-- The engine has produced no symbol of its command yet. -/
def Eng.atBegin (e : Eng) : Prop := e.step = .start ∧ e.why = .segment ∧ e.seg = 0

/-- RAW, RES64 and RES32 are those of reset or of one conversion of a masked count (R28, R29, R153). -/
def Block.resultsWhole (b : Block) : Prop :=
  (b.raw = 0 ∧ b.res64 = 0 ∧ b.res32 = 0) ∨
    (b.raw &&& 3 = 0 ∧
      ((b.res64 = measure64 b.raw kT1 kT2 ∧ b.res32 = measure32 b.raw kT1 kT2) ∨
        (b.res64 = measure64 b.raw kH1 kH2 ∧ b.res32 = measure32 b.raw kH1 kH2)))

/-- Host variables sorted by number, without repeats, without an entry 0. -/
def varsCanonical (vars : List (Nat × BitVec 64)) : Prop :=
  vars.Pairwise (fun a b => a.1 < b.1) ∧ ∀ p ∈ vars, p.2 ≠ 0

/-- What holds of the block at reset and after every step. -/
structure State.Inv (s : State) : Prop where
  /-- RUN exactly while BUSY = 1 (R31). -/
  busyRuns : s.blk.status.busy = true ↔ s.blk.eng.phase = .run
  /-- A running command has not completed: DONE = 0, ERR = 0, IOCODE = 0, NBYTES = 0 (R170, R172). -/
  runClear : s.blk.eng.phase = .run → s.blk.status.isDone = false ∧ s.blk.status.err = 0 ∧
    s.blk.status.iocode = 0 ∧ s.blk.status.nbytes = 0
  /-- A running command has the bus open (R170). -/
  runOpen : s.blk.eng.phase = .run → s.blk.status.isOpen = true
  /-- A running command's address and retry budget are CTRL's (R23, R64). -/
  runLatched : s.blk.eng.phase = .run → s.blk.eng.addr = s.blk.ctrl.addr ∧ s.blk.eng.retry = s.blk.ctrl.retry
  /-- The engine stands in the script (R105). -/
  runPlaced : s.blk.eng.phase = .run → s.blk.eng.placed
  /-- The master holds the bus from its S to its last symbol (R107, R111). -/
  holdsBus : s.bus.held = true ↔ s.blk.eng.phase = .run ∧ ¬ s.blk.eng.atBegin
  /-- Only the outcomes of R211 are ever shown (R216). -/
  outcome : outcomeLegal s.cfg.arbPossible s.blk.status.err s.blk.status.iocode
  /-- Bytes were delivered only by a command that succeeded (R24, R113). -/
  delivered : s.blk.status.nbytes ≠ 0 → s.blk.status.err = 0
  /-- No partial result (R56, R219). -/
  results : s.blk.resultsWhole
  /-- Equal host variables are equal data. -/
  hostVars : varsCanonical s.host.vars

/-- Answers of the partner. -/
def ackAnswer : Answer := ⟨false, .ack, 0⟩
def nackAnswer : Answer := ⟨false, .nack, 0⟩
def byteAnswer (b : Byte) : Answer := ⟨false, .nack, b⟩
def arbAnswer : Answer := ⟨true, .nack, 0⟩

/-- The partner's answers to an address byte it NACKs r times and then ACKs. -/
def addressAnswers (r : Nat) : List Answer := List.replicate r nackAnswer ++ [ackAnswer]

/-- An address byte NACKed and repeated r times, then ACKed (R105, R110). -/
def addressSymbols (ab : Byte) : Nat → List Symbol
  | 0 => [.tx ab .ack]
  | r + 1 => .tx ab .nack :: .repStart :: addressSymbols ab r

/-- An address byte NACKed r + 1 times, the budget spent (R110). -/
def addressRefused (ab : Byte) : Nat → List Symbol
  | 0 => [.tx ab .nack]
  | r + 1 => .tx ab .nack :: .repStart :: addressRefused ab r

/-- The bytes of a read segment, ACKed by the master but the last (R114). -/
def readSymbols : List Byte → List Symbol
  | [] => []
  | [b] => [.rx b .nack]
  | b :: bs => .rx b .ack :: readSymbols bs

/-- The payload of a read of these bytes (R112). -/
def payloadOf : List Byte → BitVec 24
  | [a] => payload a 0 0
  | [a, b] => payload a b 0
  | [a, b, c] => payload a b c
  | _ => 0

/-- The frame of XFER.W wb with r retries (R78). -/
def frameW (addr : BitVec 7) (wb : Byte) (r : Nat) : List Symbol :=
  .start :: addressSymbols (addressByte addr false) r ++ [.tx wb .ack, .stop]

/-- The frame of XFER.WR wb, n that reads the bytes bs, with r and q retries (R78). -/
def frameWR (addr : BitVec 7) (wb : Byte) (bs : List Byte) (r q : Nat) : List Symbol :=
  .start :: addressSymbols (addressByte addr false) r ++ [.tx wb .ack, .repStart]
    ++ addressSymbols (addressByte addr true) q ++ readSymbols bs ++ [.stop]

/-- The frame of XFER.R n that reads the bytes bs, with r retries (R78). -/
def frameR (addr : BitVec 7) (bs : List Byte) (r : Nat) : List Symbol :=
  .start :: addressSymbols (addressByte addr true) r ++ readSymbols bs ++ [.stop]

/-- Symbols as bus history. -/
def asEvents (ys : List Symbol) : List BusEvent := ys.map .sym

/-- The SCL periods R250 counts: 9 a byte, about one for each of S, Sr and P. -/
def sclPeriods : Symbol → Nat
  | .start | .repStart | .stop => 1
  | .tx _ _ | .rx _ _ | .rxArb => 9

/-- The milliseconds the host waited between two moments of a run, of which the history only grows (R84). -/
def waitedBetween (s₀ s : State) : Nat :=
  ((s.bus.trace.drop s₀.bus.trace.length).map fun | .quiet ms => ms | .sym _ => 0).sum

/-- The soft-reset XFER.W has completed, whatever its outcome. -/
def softResetDone (c : SensorCommands) (s : State) : Prop :=
  s.blk.eng.phase = .idle ∧ s.blk.status.isDone = true ∧ s.blk.cmd = encode (.xferW c.softReset)

/-- The XFER.WR of a reading, with the trigger that has this maximum latency, has failed (R186), wherever it failed. -/
def triggerFailed (c : SensorCommands) (ms : Nat) (s : State) : Prop :=
  s.blk.eng.phase = .idle ∧ s.blk.status.err = ErrKind.busIOError.code ∧
    ∃ b, maxLatency c b = some ms ∧ s.blk.cmd = encode (.xferWR b 3)

/-- The host's first timing duty (R182, R240): from the completion of the soft-reset XFER.W in s₀ to the launch of the
next bus command in s at least 15 ms. -/
def resetDelayKept (c : SensorCommands) (s₀ s : State) : Prop := softResetDone c s₀ → 15 ≤ waitedBetween s₀ s

/-- The host's second timing duty (R186, R240): from the failed XFER.WR in s₀ to the launch of the bare XFER.R in s at
least 50 ms, or 16 ms for humidity. -/
def conversionDelayKept (c : SensorCommands) (s₀ s : State) : Prop :=
  ∀ ms, triggerFailed c ms s₀ → ms ≤ waitedBetween s₀ s

/-- DATA's duty of R243: the host converts only what the last bus command delivered. -/
def dataFresh (s : State) : Prop := s.blk.status.err = 0 ∧ s.blk.status.nbytes = 3

/-- It is the host's move on its program: its turn, or no turn is listed and the engine has no step (assumption 2). -/
def State.hostMoves (s : State) : Prop :=
  (∃ rest, s.turns = .host :: rest) ∨ (s.turns = [] ∧ s.engineEnabled = false)

/-- The next step is the host's write of v at offset off: an access of its own, or a line of its program. -/
def State.nextWrites (s : State) (off : Nat) (v : Word) : Prop :=
  (∃ rest, s.turns = .access (.write (s.cfg.base + off) 4 v) :: rest) ∨
    (s.hostMoves ∧ s.host.program[s.host.pc]? = some (.write off v))

/-- The next step launches the command word v: a CMD write while no command runs (R26, R170). -/
def State.launches (s : State) (v : Word) : Prop := s.blk.status.busy = false ∧ s.nextWrites 0x08 v

/-- k steps, while they answer a next state. -/
def stepRun : Nat → State → Host.Outcome State Fault Refusal
  | 0, s => .next s
  | k + 1, s =>
    match step s with
    | .next t => stepRun k t
    | o => o

end Sys2Proof.Machine
end

