-- ==== Sys2Proof/Certificates/Slice0/Obligations.lean ====
section
/-! DEFINITION. The statements for the provers, from the numbered rules of the spec. -/

open Sys2Proof Sys2Proof.Machine

/-! ### Encoding (30_encoding.md) -/

/-- Decoding the encoding of a well-formed command gives the command back, every operand kept; a word that decodes
decodes to a well-formed command, and that command encodes to the word: each command has one word (R74, R80). -/
def Obligations.DecodeAndEncodeAgree : Prop :=
  (∀ i : Instr, i.wf = true → decode (encode i) = .ok i) ∧
  (∀ (v : Word) (i : Instr), decode v = .ok i → i.wf = true ∧ encode i = v)

/-- Which words decode to which command, by the match and mask of spec/opcode_table.json and the condition on RLEN
(R73, R74). -/
def Obligations.DecodingFollowsTheOpcodeTable : Prop :=
  ∀ v : Word,
    (decode v = .ok .nop ↔ v = 0x00000000) ∧ (decode v = .ok .busOpen ↔ v = 0x00000001) ∧
    (decode v = .ok .busClose ↔ v = 0x00000002) ∧
    (∀ wb, decode v = .ok (.xferW wb) ↔ v &&& 0xFFFF00FF = 0x00000003 ∧ v.extractLsb' 8 8 = wb) ∧
    (∀ wb n, decode v = .ok (.xferWR wb n) ↔
      v &&& 0xFFFC00FF = 0x00000004 ∧ v.extractLsb' 8 8 = wb ∧ v.extractLsb' 16 2 = n ∧ n ≠ 0) ∧
    (∀ n, decode v = .ok (.xferR n) ↔ v &&& 0xFFFCFFFF = 0x00000005 ∧ v.extractLsb' 16 2 = n ∧ n ≠ 0) ∧
    (decode v = .ok .crcChk ↔ v = 0x00000006) ∧ (decode v = .ok .convT ↔ v = 0x00000007) ∧
    (decode v = .ok .convRH ↔ v = 0x00000008) ∧ (decode v = .ok .clrstat ↔ v = 0x00000009)

/-- Exactly 1,034 words are legal: 256 with OP 3, 768 with OP 4, 3 with OP 5 and 7 others (R75). -/
def Obligations.ExactlyThatManyWordsAreLegal : Prop :=
  ∃ ws : List Word, ws.Nodup ∧ ws.length = 1034 ∧ (∀ v, v ∈ ws ↔ ∃ i, decode v = .ok i) ∧
    (ws.filter (fun v => v.extractLsb' 0 4 == 0x3#4)).length = 256 ∧
    (ws.filter (fun v => v.extractLsb' 0 4 == 0x4#4)).length = 768 ∧
    (ws.filter (fun v => v.extractLsb' 0 4 == 0x5#4)).length = 3

/-- The command words of R81, each written out, decode to the commands the table gives them and are their encodings. -/
def Obligations.TheSequenceWordsDecode : Prop :=
  ∀ p ∈ [(Instr.nop, 0x00000000#32), (.busOpen, 0x00000001#32), (.busClose, 0x00000002#32),
      (.xferW sensorDefaults.softReset, 0x0000FE03#32), (.xferWR sensorDefaults.readUser 1, 0x0001E704#32),
      (.xferWR sensorDefaults.trigT 3, 0x0003F304#32), (.xferWR sensorDefaults.trigRH 3, 0x0003F504#32),
      (.xferR 3, 0x00030005#32), (.crcChk, 0x00000006#32), (.convT, 0x00000007#32), (.convRH, 0x00000008#32),
      (.clrstat, 0x00000009#32)],
    decode p.2 = .ok p.1 ∧ encode p.1 = p.2

/-! ### Launch and completion (43_control.md, 60_exceptions.md) -/

/-- When the next turn is a CMD write of a word that decodes to i and no command runs, the step is exec of i at the state
with that turn taken and the launch effects of R170 (the second clause writes them out). The three ways a CMD write
comes: a host access, a host program's line, withFetchWord. Any other host access of a turn, a read or a write of any
register, is hostAccess at the state with that turn taken. (The list of turns is the model's form of R8's interleaving,
assumption 2; the placing of a word, assumption 6.) -/
def Obligations.StepRunsTheDecodedCommand : Prop :=
  (∀ (s : State) (v : Word) (i : Instr) (rest : List Turn), s.blk.status.busy = false → decode v = .ok i →
    s.turns = .access (.write (s.cfg.base + 0x08) 4 v) :: rest →
    step s = exec i (({ s with turns := rest } : State).launched v)) ∧
  (∀ (s : State) (v : Word), s.launched v =
    { s with blk := { s.blk with
        cmd := v
        status := { s.blk.status with isDone := false, err := 0, iocode := 0, nbytes := 0, busy := true }
        eng := { s.blk.eng with phase := .run } } }) ∧
  (∀ (s : State) (v : Word) (i : Instr) (rest : List Turn), s.blk.status.busy = false → decode v = .ok i →
    s.turns = .host :: rest → s.host.program[s.host.pc]? = some (.write 0x08 v) →
    step s = exec i
      (({ s with turns := rest, host := { s.host with pc := s.host.pc + 1 } } : State).launched v)) ∧
  (∀ (s : State) (w : Nat) (i : Instr), w < 2 ^ 32 → decode (BitVec.ofNat 32 w) = .ok i →
    s.blk.status.busy = false → s.blk.eng.phase = .idle →
    step (s.withFetchWord 32 w) = exec i (s.launched (BitVec.ofNat 32 w))) ∧
  (∀ (s : State) (a : Access) (rest : List Turn), s.turns = .access a :: rest →
    step s = hostAccess a { s with turns := rest })

/-- An illegal word launched completes with ERR = 7 and changes nothing but CMD, DONE, ERR, IOCODE and NBYTES (R212);
BUSY and the engine's phase end as they were before the launch. -/
def Obligations.IllegalWordCompletesWithErr7 : Prop :=
  ∀ (s : State) (v : Word) (why : Illegal), s.blk.status.busy = false → s.blk.eng.phase = .idle →
    decode v = .error why →
    hostWriteAt 0x08 v s = .next
      { s with blk := { s.blk with
          cmd := v
          status := { s.blk.status with isDone := true, err := 7, iocode := 0, nbytes := 0 } } }

/-- CLOSE and the bus commands launched on a closed bus complete with ERR = 6 and change nothing beyond the launch
effects (R213). -/
def Obligations.ClosedBusRejectsBusCommands : Prop :=
  ∀ (s : State) (v : Word) (i : Instr), s.blk.status.busy = false → s.blk.eng.phase = .idle →
    s.blk.status.isOpen = false → decode v = .ok i →
    (i = .busClose ∨ (∃ wb, i = .xferW wb) ∨ (∃ wb n, i = .xferWR wb n) ∨ ∃ n, i = .xferR n) →
    hostWriteAt 0x08 v s = .next
      { s with blk := { s.blk with
          cmd := v
          status := { s.blk.status with isDone := true, err := 6, iocode := 0, nbytes := 0 } } }

/-- A CMD write completes its command in the same step, whatever the word, but for the three bus commands on an open
bus; those are left running (R170). -/
def Obligations.OnlyBusCommandsOutliveTheirLaunch : Prop :=
  ∀ (s : State) (v : Word), s.blk.status.busy = false → ∃ t, hostWriteAt 0x08 v s = .next t ∧ t.blk.cmd = v ∧
    (if s.blk.status.isOpen = true ∧
        ((∃ wb, decode v = .ok (.xferW wb)) ∨ (∃ wb n, decode v = .ok (.xferWR wb n)) ∨ ∃ n, decode v = .ok (.xferR n))
      then t.blk.status.busy = true ∧ t.blk.status.isDone = false ∧ t.blk.eng.phase = .run
      else t.blk.status.busy = false ∧ t.blk.status.isDone = true ∧ t.blk.eng.phase = .idle)

/-- A write to CMD, CTRL or DATA while BUSY = 1 sets OVR and does nothing else; once set, OVR is cleared only by a launch
of CLRSTAT or by reset (R171). -/
def Obligations.WriteWhileBusyOnlySetsOvr : Prop :=
  (∀ (s : State) (off : Nat) (v : Word), s.blk.status.busy = true → (off = 0x00 ∨ off = 0x08 ∨ off = 0x0C) →
    hostWriteAt off v s = .next { s with blk := { s.blk with status := { s.blk.status with ovr := true } } }) ∧
  (∀ s t : State, step s = .next t → s.blk.status.ovr = true → t.blk.status.ovr = false →
    (∃ rest, s.turns = .reset :: rest) ∨ s.launches 0x00000009)

/-- Which outcomes each command can have (R211): those of a launch that completes at once, and those of the engine's
completion of a running bus command. -/
def Obligations.OutcomesOfEachCommand : Prop :=
  (∀ (s t : State) (v : Word), s.blk.status.busy = false → hostWriteAt 0x08 v s = .next t →
    t.blk.eng.phase = .idle →
    match decode v with
    | .error _ => t.blk.status.err = 7 ∧ t.blk.status.iocode = 0
    | .ok .nop | .ok .busOpen | .ok .crcChk | .ok .clrstat => t.blk.status.err = 0 ∧ t.blk.status.iocode = 0
    | .ok .busClose => (t.blk.status.err = 0 ∨ t.blk.status.err = 6) ∧ t.blk.status.iocode = 0
    | .ok .convT | .ok .convRH => (t.blk.status.err = 0 ∨ t.blk.status.err = 5) ∧ t.blk.status.iocode = 0
    | .ok (.xferW _) | .ok (.xferWR _ _) | .ok (.xferR _) => t.blk.status.err = 6 ∧ t.blk.status.iocode = 0) ∧
  (∀ s : State, s.Inv → s.blk.eng.phase = .run → (engineStep s).blk.eng.phase = .idle →
    let t := (engineStep s).blk.status;
    (t.err = 0 ∧ t.iocode = 0) ∨ (t.err = 3 ∧ t.iocode = 1) ∨
      (t.err = 3 ∧ t.iocode = 2 ∧ s.blk.eng.op ≠ 0x5) ∨
      (t.err = 3 ∧ t.iocode = 3 ∧ s.cfg.arbPossible = true))

/-- No step writes a reserved or host-only code: ERR stays or becomes 0, 3, 5, 6 or 7, and IOCODE stays or becomes at
most 3 (R216). -/
def Obligations.ReservedCodesAreNeverProduced : Prop :=
  ∀ s t : State, step s = .next t →
    (t.blk.status.err = s.blk.status.err ∨ t.blk.status.err = 0 ∨ t.blk.status.err = 3 ∨ t.blk.status.err = 5 ∨
      t.blk.status.err = 6 ∨ t.blk.status.err = 7) ∧
    (t.blk.status.iocode = s.blk.status.iocode ∨ t.blk.status.iocode.toNat ≤ 3)

/-! ### The commands that complete at launch -/

/-- NOP completes with ERR = 0 and no other effect (R175). -/
def Obligations.NopCompletes : Prop :=
  ∀ s : State, exec .nop s = .next
    { s with blk := { s.blk with
        status := { s.blk.status with err := 0, iocode := 0, busy := false, isDone := true }
        eng := { s.blk.eng with phase := .idle } } }

/-- CLRSTAT clears OVR and CRC_OK and completes; OPEN, DATA, RAW and the results stay (R176). -/
def Obligations.ClrstatClearsTheStickyFlags : Prop :=
  ∀ s : State, exec .clrstat s = .next
    { s with blk := { s.blk with
        status := { s.blk.status with
          ovr := false, crcOk := false, err := 0, iocode := 0, busy := false, isDone := true }
        eng := { s.blk.eng with phase := .idle } } }

/-- OPEN sets OPEN and completes, also where the bus is open already; it puts no symbol on the bus (R100). -/
def Obligations.OpenOpensTheBus : Prop :=
  ∀ s : State, exec .busOpen s = .next
    { s with blk := { s.blk with
        status := { s.blk.status with isOpen := true, err := 0, iocode := 0, busy := false, isDone := true }
        eng := { s.blk.eng with phase := .idle } } }

/-- CLOSE on an open bus clears OPEN, on a closed one completes with ERR = 6; DATA, RAW and the results stay, and no
symbol is put on the bus (R101). -/
def Obligations.CloseClosesTheBus : Prop :=
  ∀ s : State, exec .busClose s = .next
    { s with blk := { s.blk with
        status := { s.blk.status with
          isOpen := false, err := if s.blk.status.isOpen then 0 else 6, iocode := 0, busy := false, isDone := true }
        eng := { s.blk.eng with phase := .idle } } }

/-- CRC.CHK writes the result of the check of DATA to CRC_OK and completes with ERR = 0 whatever the result; nothing
else changes, and the bus need not be open (R143). -/
def Obligations.CrcChkWritesCrcOk : Prop :=
  ∀ s : State, exec .crcChk s = .next
    { s with blk := { s.blk with
        status := { s.blk.status with
          crcOk := crcOk s.blk.data, err := 0, iocode := 0, busy := false, isDone := true }
        eng := { s.blk.eng with phase := .idle } } }

/-- CONV.T and CONV.RH on a payload whose check passes: RAW the masked count; RES64 the encoding of
r = fl64(fl64(raw / 65536 × K1) − K2) with K_T1, K_T2 or K_H1, K_H2, each constant by its encoding, and RES32 that of
fl32(r); CRC_OK = 1, ERR = 0, nothing else changed, bus open or not (R151, R152, R153, R155, R156). What the exact product
and difference, fl64, fl32 and the encodings are, RoundingIsToNearestEven and EncodingsStandForTheirValues say. -/
def Obligations.ConvConvertsAValidPayload : Prop :=
  ∀ s : State, crcOk s.blk.data = true →
    let raw := (s.blk.data.extractLsb' 8 16) &&& 0xFFFC#16;
    let r (k1 k2 : BitVec 64) : Dy :=
      binary64.fl (Dy.sub (binary64.fl (Dy.mul ⟨raw.toNat, -16⟩ (binary64.value k1.toNat))) (binary64.value k2.toNat));
    let converted (k1 k2 : BitVec 64) : State :=
      { s with blk := { s.blk with
          raw := raw
          res64 := BitVec.ofNat 64 (binary64.bits (r k1 k2))
          res32 := BitVec.ofNat 32 (binary32.bits (binary32.fl (r k1 k2)))
          status := { s.blk.status with crcOk := true, err := 0, iocode := 0, busy := false, isDone := true }
          eng := { s.blk.eng with phase := .idle } } };
    exec .convT s = .next (converted 0x4065F70A3D70A3D7 0x40476CCCCCCCCCCD) ∧
    exec .convRH s = .next (converted 0x405F400000000000 0x4018000000000000)

/-- ChecksumError: CONV.T and CONV.RH on a payload whose check fails complete with ERR = 5 and CRC_OK = 0; RAW, RES64 and
RES32 are unchanged, and so is all else; on a payload whose check passes they do not raise it, and CRC.CHK never does
(R215). -/
def Obligations.BadChecksumIsNeverConverted : Prop :=
  ∀ s : State,
    (crcOk s.blk.data = false → ∀ i : Instr, i = .convT ∨ i = .convRH → exec i s = .next
      { s with blk := { s.blk with
          status := { s.blk.status with crcOk := false, err := 5, iocode := 0, busy := false, isDone := true }
          eng := { s.blk.eng with phase := .idle } } }) ∧
    (crcOk s.blk.data = true → ∀ i : Instr, i = .convT ∨ i = .convRH →
      ∃ t, exec i s = .next t ∧ t.blk.status.err = 0) ∧
    (∃ t, exec .crcChk s = .next t ∧ t.blk.status.err = 0)

/-! ### The CRC validator (41_crc.md) -/

/-- A payload is valid exactly when its third byte is crc8 of the first two (R142 item 2, R146). -/
def Obligations.ValidPayloadsCarryTheirCrc8 : Prop :=
  ∀ b0 b1 b2 : Byte, crcOk (payload b0 b1 b2) = true ↔ b2 = crc8 b0 b1

/-- The validator catches every error pattern of weight 1, 2 or 3 and every one of odd weight, and does not catch the
weight-4 pattern 0x800023 (R145). -/
def Obligations.CrcErrorDetection : Prop :=
  (∀ d e : BitVec 24, crcOk d = true →
    (let w := ((List.range 24).filter e.getLsbD).length; w = 1 ∨ w = 2 ∨ w = 3 ∨ w % 2 = 1) →
    crcOk (d ^^^ e) = false) ∧
  (∀ d : BitVec 24, crcOk d = true → crcOk (d ^^^ 0x800023) = true)

/-! ### The converter (42_convert.md) -/

/-- roundEven is the nearest integer to n / 2^k, and the even one at a tie; the product and the difference of R153 are
exact; and fl64 and fl32 give the nearest value of their format, at a tie the one whose last fraction bit is even, wherever
that value is finite (R150). The numbers are compared as rationals. -/
def Obligations.RoundingIsToNearestEven : Prop :=
  let rat (x : Dy) : ℚ := (x.num : ℚ) * (2 : ℚ) ^ x.exp
  (∀ n k : Nat, 2 * n ≤ (2 * roundEven n k + 1) * 2 ^ k ∧ 2 * roundEven n k * 2 ^ k ≤ 2 * n + 2 ^ k ∧
    (2 * n = (2 * roundEven n k + 1) * 2 ^ k ∨ 2 * roundEven n k * 2 ^ k = 2 * n + 2 ^ k →
      roundEven n k % 2 = 0)) ∧
  (∀ x y : Dy, rat (Dy.mul x y) = rat x * rat y ∧ rat (Dy.sub x y) = rat x - rat y) ∧
  (∀ (f : Format) (x : Dy), f = binary64 ∨ f = binary32 →
    let finite (b : Nat) : Prop := b < 2 ^ (1 + f.expo + f.frac) ∧ b / 2 ^ f.frac % 2 ^ f.expo ≠ 2 ^ f.expo - 1
    finite (f.bits (f.fl x)) →
      rat (f.value (f.bits (f.fl x))) = rat (f.fl x) ∧
      ∀ b, finite b → |rat x - rat (f.fl x)| ≤ |rat x - rat (f.value b)| ∧
        (|rat x - rat (f.fl x)| = |rat x - rat (f.value b)| → rat (f.value b) ≠ rat (f.fl x) →
          f.bits (f.fl x) % 2 = 0))

/-- What a finite binary64 or binary32 encoding stands for: sign, exponent with bias 1023 or 127, fraction of 52 or 23
bits, an exponent field of 0 without the leading 1; and encoding that number gives the encoding back, but for the encoding
of -0 (R150). -/
def Obligations.EncodingsStandForTheirValues : Prop :=
  let rat (x : Dy) : ℚ := (x.num : ℚ) * (2 : ℚ) ^ x.exp
  (∀ b : BitVec 64, b.extractLsb' 52 11 ≠ 0x7FF#11 →
    (let sign : ℚ := if b.getLsbD 63 then -1 else 1
    let e := (b.extractLsb' 52 11).toNat
    let m : ℚ := (b.extractLsb' 0 52).toNat / 2 ^ 52
    rat (binary64.value b.toNat) =
      if e = 0 then sign * m * (2 : ℚ) ^ (-1022 : Int) else sign * (1 + m) * (2 : ℚ) ^ ((e : Int) - 1023)) ∧
    (b ≠ 0x8000000000000000 → binary64.bits (binary64.value b.toNat) = b.toNat)) ∧
  (∀ b : BitVec 32, b.extractLsb' 23 8 ≠ 0xFF#8 →
    (let sign : ℚ := if b.getLsbD 31 then -1 else 1
    let e := (b.extractLsb' 23 8).toNat
    let m : ℚ := (b.extractLsb' 0 23).toNat / 2 ^ 23
    rat (binary32.value b.toNat) =
      if e = 0 then sign * m * (2 : ℚ) ^ (-126 : Int) else sign * (1 + m) * (2 : ℚ) ^ ((e : Int) - 127)) ∧
    (b ≠ 0x80000000 → binary32.bits (binary32.value b.toNat) = b.toNat))

/-- decode of R152: a multiple of 4, the two data bytes but for the two low bits, whatever those are. -/
def Obligations.DecodeMasksTheStatusBits : Prop :=
  ∀ b0 b1 : Byte, (decodeRaw b0 b1).toNat = b0.toNat * 256 + b1.toNat / 4 * 4 ∧
    ∀ x : Byte, x &&& 0xFC = 0 → decodeRaw b0 (b1 ^^^ x) = decodeRaw b0 b1

/-- Humidity results are exact in both formats: RES64 and RES32 stand for (125 * raw - 393216) / 65536 (R158). -/
def Obligations.HumidityIsExact : Prop :=
  ∀ raw : BitVec 16, raw &&& 3 = 0 →
    (binary64.value (measure64 raw kH1 kH2).toNat).same ⟨125 * raw.toNat - 393216, -16⟩ ∧
    (binary32.value (measure32 raw kH1 kH2).toNat).same ⟨125 * raw.toNat - 393216, -16⟩

/-- The result never decreases as the raw count grows; it is a normal number (no zero, subnormal, infinity or NaN); it
lies in [-46.85, 128.86] for temperature, the lower end being K_T2's value, and in [-6, 119] for humidity (R154). -/
def Obligations.ConversionIsMonotone : Prop :=
  (∀ (a b : BitVec 16), a &&& 3 = 0 → b &&& 3 = 0 → a ≤ b →
    (measure a kT1 kT2).le (measure b kT1 kT2) ∧ (measure a kH1 kH2).le (measure b kH1 kH2)) ∧
  (∀ a : BitVec 16, a &&& 3 = 0 →
    (measure64 a kT1 kT2).extractLsb' 52 11 ≠ 0 ∧ (measure64 a kT1 kT2).extractLsb' 52 11 ≠ 0x7FF ∧
    (measure64 a kH1 kH2).extractLsb' 52 11 ≠ 0 ∧ (measure64 a kH1 kH2).extractLsb' 52 11 ≠ 0x7FF ∧
    Dy.le ⟨-(value64 kT2).num, (value64 kT2).exp⟩ (measure a kT1 kT2) ∧
    Dy.le (Dy.mul ⟨100, 0⟩ (measure a kT1 kT2)) ⟨12886, 0⟩ ∧
    Dy.le ⟨-6, 0⟩ (measure a kH1 kH2) ∧ Dy.le (measure a kH1 kH2) ⟨119, 0⟩)

/-! ### The registers and the window (10_state.md, 20_memory.md) -/

/-- A host write of CTRL: OVR while busy; no effect while open; else ADDR and RETRY from v[6:0] and v[11:8], the other
bits ignored. A read gives (RETRY << 8) | ADDR (R23). -/
def Obligations.CtrlWritesAndReads : Prop :=
  (∀ (s : State) (v : Word), hostWriteAt 0x00 v s = .next
    (if s.blk.status.busy = true then
      { s with blk := { s.blk with status := { s.blk.status with ovr := true } } }
    else if s.blk.status.isOpen = true then s
    else { s with blk := { s.blk with ctrl := { addr := v.extractLsb' 0 7, retry := v.extractLsb' 8 4 } } })) ∧
  (∀ s : State, hostReadAt 0x00 s = .next { s with host := { s.host with
      rdata := (s.blk.ctrl.retry.setWidth 32 <<< 8) ||| s.blk.ctrl.addr.setWidth 32 } })

/-- A host write of DATA while BUSY = 0 stores v & 0x00FFFFFF, which a read gives back; B0, B1 and B2 stand in [23:16],
[15:8] and [7:0] (R27). -/
def Obligations.DataWritesAndReads : Prop :=
  ∀ (s : State) (v : Word), s.blk.status.busy = false → ∃ t u : State,
    hostWriteAt 0x0C v s = .next t ∧ t = { s with blk := { s.blk with data := t.blk.data } } ∧
    hostReadAt 0x0C t = .next u ∧ u.host.rdata = v &&& 0x00FFFFFF ∧ u.blk = t.blk ∧
    byte0 t.blk.data = v.extractLsb' 16 8 ∧ byte1 t.blk.data = v.extractLsb' 8 8 ∧ byte2 t.blk.data = v.extractLsb' 0 8

/-- A write to a read-only register or a reserved offset is ignored, BUSY or not, and does not set OVR (R51). -/
def Obligations.ReadOnlyWritesAreIgnored : Prop :=
  ∀ (s : State) (off : Nat) (v : Word), off % 4 = 0 → off < 0x100 → off ≠ 0x00 → off ≠ 0x08 → off ≠ 0x0C →
    hostWriteAt off v s = .next s

/-- A read gives the register's value, reserved bits and reserved offsets 0, and changes nothing of the block (R50). -/
def Obligations.ReadsHaveNoSideEffect : Prop :=
  ∀ (s : State) (off : Nat), off % 4 = 0 → off < 0x100 →
    hostReadAt off s = .next { s with host := { s.host with rdata :=
      (if off = 0x00 then s.blk.ctrl.word
      else if off = 0x04 then s.blk.status.word
      else if off = 0x08 then s.blk.cmd
      else if off = 0x0C then s.blk.data.setWidth 32
      else if off = 0x10 then s.blk.raw.setWidth 32
      else if off = 0x14 then s.blk.res64.extractLsb' 0 32
      else if off = 0x18 then s.blk.res64.extractLsb' 32 32
      else if off = 0x1C then s.blk.res32
      else 0) } } ∧
    ((s.blk.readReg .res64Hi).setWidth 64 <<< 32) ||| (s.blk.readReg .res64Lo).setWidth 64 = s.blk.res64

/-- Where each field of STATUS stands in the word a read gives (R24). -/
def Obligations.StatusReadShowsEveryField : Prop :=
  ∀ s : State, ∃ t, hostReadAt 0x04 s = .next t ∧
    (let w := t.host.rdata;
      w.extractLsb' 18 14 = 0 ∧ w.extractLsb' 16 2 = s.blk.status.nbytes ∧ w.extractLsb' 12 4 = s.blk.status.iocode ∧
      w.extractLsb' 8 4 = s.blk.status.err ∧ w.extractLsb' 5 3 = 0 ∧ w.getLsbD 4 = s.blk.status.ovr ∧
      w.getLsbD 3 = s.blk.status.crcOk ∧ w.getLsbD 2 = s.blk.status.isDone ∧ w.getLsbD 1 = s.blk.status.isOpen ∧
      w.getLsbD 0 = s.blk.status.busy)

/-- The admitted accesses are 4 bytes wide at a multiple of 4 inside the window and act as HostRead and HostWrite; any
other access that touches the window is refused as UnsupportedAccess (R52). -/
def Obligations.OnlyWordAccessesAreAdmitted : Prop :=
  ∀ (s : State) (addr width : Nat) (v : Word),
    (width = 4 → s.cfg.base ≤ addr → addr < s.cfg.base + 0x100 → (addr - s.cfg.base) % 4 = 0 →
      hostAccess (.read addr width) s = hostReadAt (addr - s.cfg.base) s ∧
      hostAccess (.write addr width v) s = hostWriteAt (addr - s.cfg.base) v s) ∧
    (∀ a : Nat, addr ≤ a → a < addr + width → s.cfg.base ≤ a → a < s.cfg.base + 0x100 →
      ¬ (width = 4 ∧ s.cfg.base ≤ addr ∧ (addr - s.cfg.base) % 4 = 0) →
      hostAccess (.read addr width) s = .refused .unsupportedAccess ∧
      hostAccess (.write addr width v) s = .refused .unsupportedAccess)

/-- OPEN changes only by a launch of OPEN or CLOSE, or by reset (R25). -/
def Obligations.OnlyOpenCloseAndResetChangeOpen : Prop :=
  ∀ s t : State, step s = .next t → t.blk.status.isOpen ≠ s.blk.status.isOpen →
    (∃ rest, s.turns = .reset :: rest) ∨
    (s.launches 0x00000001 ∧ t.blk.status.isOpen = true) ∨ (s.launches 0x00000002 ∧ t.blk.status.isOpen = false)

/-- CTRL does not change while the bus is open or a command runs, but by reset (R23, R242). -/
def Obligations.CtrlIsImmutableWhileOpen : Prop :=
  ∀ s t : State, step s = .next t → s.blk.status.isOpen = true ∨ s.blk.status.busy = true →
    (∀ rest, s.turns ≠ .reset :: rest) → t.blk.ctrl = s.blk.ctrl

/-- RAW, RES64 and RES32 change only by reset or in the step that is the launch of CONV.T or CONV.RH on a payload whose CRC
check passes: BUSY was 0, the next state is exec of that command at the launched state (s₀: the block as it was, the
host's move taken), and the three are written together (R28, R29). -/
def Obligations.ResultsAreWrittenOnlyByConv : Prop :=
  ∀ s t : State, step s = .next t →
    (t.blk.raw ≠ s.blk.raw ∨ t.blk.res64 ≠ s.blk.res64 ∨ t.blk.res32 ≠ s.blk.res32) →
    (∃ rest, s.turns = .reset :: rest) ∨
    (s.blk.status.busy = false ∧ crcOk s.blk.data = true ∧ t.blk.raw = rawOf s.blk.data ∧
      ∃ s₀ : State, s₀.blk = s.blk ∧
        ((s.launches 0x00000007 ∧ exec .convT (s₀.launched 0x00000007) = .next t ∧
            t.blk.res64 = measure64 t.blk.raw kT1 kT2 ∧ t.blk.res32 = measure32 t.blk.raw kT1 kT2) ∨
          (s.launches 0x00000008 ∧ exec .convRH (s₀.launched 0x00000008) = .next t ∧
            t.blk.res64 = measure64 t.blk.raw kH1 kH2 ∧ t.blk.res32 = measure32 t.blk.raw kH1 kH2)))

/-- Every evaluation of the CRC (CRC.CHK, CONV.T, CONV.RH) writes its result to CRC_OK in its completion step, and CRC_OK
keeps that value until a step that is the launch of such a command, which writes the result for the DATA of that moment,
the launch of CLRSTAT, or reset (R144). -/
def Obligations.CrcOkHoldsTheLastEvaluation : Prop :=
  (∀ (s : State) (i : Instr), i = .crcChk ∨ i = .convT ∨ i = .convRH →
    ∃ t, exec i s = .next t ∧ t.blk.status.crcOk = crcOk s.blk.data ∧ t.blk.status.isDone = true) ∧
  ∀ s t : State, step s = .next t → t.blk.status.crcOk ≠ s.blk.status.crcOk →
    (∃ rest, s.turns = .reset :: rest) ∨ (s.launches 0x00000009 ∧ t.blk.status.crcOk = false) ∨
    ((s.launches 0x00000006 ∨ s.launches 0x00000007 ∨ s.launches 0x00000008) ∧
      t.blk.status.crcOk = crcOk s.blk.data)

/-- While a command runs, no move of the host changes anything of the block but OVR: its turn, an access of its own, or
its line where no turn is listed and the engine has no step (R32; the turns, assumption 2). -/
def Obligations.HostCannotDisturbARunningCommand : Prop :=
  ∀ s t : State, s.blk.status.busy = true →
    ((∃ rest, s.turns = .host :: rest) ∨ (∃ a rest, s.turns = .access a :: rest) ∨
      (s.turns = [] ∧ (s.blk.eng.phase = .idle ∨ s.partner.holdsScl = true))) →
    step s = .next t →
    t.blk = s.blk ∨ t.blk = { s.blk with status := { s.blk.status with ovr := true } }

/-! ### Reset (70_reset_and_hazards.md) -/

/-- The machine right after reset holds the values of R231. -/
def Obligations.ResetValues : Prop :=
  let b := State.reset.blk;
  b.ctrl.word = 0x00000040 ∧ b.ctrl.addr = 0x40 ∧ b.ctrl.retry = 0 ∧ b.status.word = 0x00000000 ∧ b.cmd = 0 ∧ b.data = 0 ∧
  b.raw = 0 ∧ b.res64 = 0 ∧ b.res32 = 0 ∧ b.eng.phase = .idle ∧ b.eng.op = 0 ∧ b.eng.wbyte = 0 ∧ b.eng.rlen = 0 ∧
  b.eng.retry = 0 ∧ b.eng.seg = 0 ∧ b.eng.idx = 0 ∧ b.eng.left = 0 ∧ b.eng.rx0 = 0 ∧ b.eng.rx1 = 0 ∧ b.eng.rx2 = 0 ∧
  b.eng.addr = 0x40 ∧ b.eng.step = .start ∧ State.reset.bus.held = false

/-- Block reset at any time, also while a command runs: every register and `eng` field takes its reset value, the lines are
released, no symbol is emitted and no completion made; the partner and the host are not reset. It is the only way out of
a hung command: while the partner holds SCL no other step ends BUSY (R230). -/
def Obligations.BlockResetAtAnyTime : Prop :=
  (∀ (s : State) (rest : List Turn), s.turns = .reset :: rest →
    step s = .next { s with blk := State.reset.blk, bus := ⟨false, s.bus.trace⟩, turns := rest }) ∧
  (∀ s t : State, s.blk.status.busy = true → s.partner.holdsScl = true → (∀ rest, s.turns ≠ .reset :: rest) →
    step s = .next t → t.blk.status.busy = true)

/-! ### The engine (40_i2c_engine.md) -/

/-- XFER.W, XFER.WR and XFER.R on an open bus: the engine latches the command, ADDR and RETRY and stands before its START;
nothing else changes (R102). That `why` is then `segment` is the model's own clause (assumption 4). -/
def Obligations.BusCommandsStartTheEngine : Prop :=
  ∀ s : State, s.blk.status.isOpen = true →
    let started (op : BitVec 4) (wb : Byte) (n : BitVec 2) : State :=
      { s with blk := { s.blk with eng := { s.blk.eng with
          phase := .run, op := op, wbyte := wb, rlen := n, addr := s.blk.ctrl.addr, retry := s.blk.ctrl.retry,
          step := .start, seg := 0, idx := 0, why := .segment } } }
    (∀ wb, exec (.xferW wb) s = .next (started 0x3 wb 0)) ∧
    (∀ wb n, exec (.xferWR wb n) s = .next (started 0x4 wb n)) ∧
    (∀ n, exec (.xferR n) s = .next (started 0x5 0 n))

/-- One engine step produces exactly one symbol; the step that completes the command is the one that produces its last
symbol, a STOP or a byte in which arbitration was lost. The engine has no step while IDLE or while the partner holds
SCL (R103, R106). A step of the machine whose turn is the engine's is that engine step; where no turn is listed it is the
engine's if the engine has one, else the host's (the turns are the model's, assumption 2). -/
def Obligations.AnEngineStepIsOneSymbol : Prop :=
  (∀ s : State, s.blk.eng.phase = .run → s.partner.holdsScl = false →
    ∃ y : Symbol, (engineStep s).bus.trace = s.bus.trace ++ [.sym y] ∧
      ((engineStep s).blk.eng.phase = .idle ↔ y = .stop ∨ (∃ b, y = .tx b .arb) ∨ y = .rxArb)) ∧
  (∀ (s : State) (k : Nat), s.blk.eng.phase = .idle ∨ s.partner.holdsScl = true → engineRun k s = s) ∧
  (∀ (s : State) (rest : List Turn), s.turns = .engine :: rest →
    step s = .next (engineStep { s with turns := rest })) ∧
  (∀ s : State, s.turns = [] →
    (s.blk.eng.phase = .run → s.partner.holdsScl = false → step s = .next (engineStep s)) ∧
    (s.blk.eng.phase = .idle ∨ s.partner.holdsScl = true → step s = step { s with turns := [.host] }))

/-- Until the step that completes the command no register changes, but for the engine's hidden state: a read gives the
values from before the command. No engine step changes CTRL, CMD, RAW, the results, OPEN, OVR or CRC_OK, nor anything of
the host, the parameters or the turns (R56, R112, R113, R172). -/
def Obligations.RegistersChangeOnlyAtCompletion : Prop :=
  ∀ s : State,
    ((engineStep s).blk.eng.phase = .run →
      (engineStep s).blk = { s.blk with eng := (engineStep s).blk.eng }) ∧
    (let t := engineStep s;
      t.blk = { s.blk with data := t.blk.data, eng := t.blk.eng, status := { s.blk.status with
        nbytes := t.blk.status.nbytes, iocode := t.blk.status.iocode, err := t.blk.status.err,
        isDone := t.blk.status.isDone, busy := t.blk.status.busy } } ∧
      t = { s with blk := t.blk, bus := t.bus, partner := t.partner })

/-- Every engine completion with ERR = 3 leaves DATA unchanged, whatever bytes were received, and NBYTES at 0, its launch
value (R113). -/
def Obligations.FailureLeavesData : Prop :=
  ∀ s : State, s.Inv → s.blk.eng.phase = .run → (engineStep s).blk.eng.phase = .idle →
    (engineStep s).blk.status.err = 3 →
    (engineStep s).blk.data = s.blk.data ∧ s.blk.status.nbytes = 0 ∧ (engineStep s).blk.status.nbytes = 0

/-- XFER.W whose address byte is NACKed r times and ACKed then, r within the budget, and whose byte is ACKed: 4 + 2r
symbols, the frame of R78 with the retries of R110, ERR = 0; no register but STATUS changes (R105, R120, R123). -/
def Obligations.XferWSucceeds : Prop :=
  ∀ (s : State) (wb : Byte) (r : Nat) (rest : List Answer), s.blk.status.isOpen = true → s.partner.holdsScl = false →
    r ≤ s.blk.ctrl.retry.toNat → s.partner.answers = addressAnswers r ++ ackAnswer :: rest →
    ∃ t, exec (.xferW wb) s = .next t ∧ (∀ k, k < 4 + 2 * r → (engineRun k t).blk.eng.phase = .run) ∧
      (let u := engineRun (4 + 2 * r) t;
        u.blk.eng.phase = .idle ∧
        u = { s with
          blk := { s.blk with
            status := { s.blk.status with err := 0, iocode := 0, busy := false, isDone := true }
            eng := u.blk.eng }
          bus := ⟨false, s.bus.trace ++ asEvents (frameW s.blk.ctrl.addr wb r)⟩
          partner := { s.partner with answers := rest } })

/-- XFER.WR wb, n whose address bytes are NACKed r and q times, each within the budget, which begins again for the read
segment: 6 + n + 2(r + q) symbols, one frame without a STOP inside; DATA the n bytes received, the rest 0, and NBYTES
n (R105, R110, R112, R121, R123). -/
def Obligations.XferWRSucceeds : Prop :=
  ∀ (s : State) (wb : Byte) (n : BitVec 2) (bs : List Byte) (r q : Nat) (rest : List Answer),
    s.blk.status.isOpen = true → s.partner.holdsScl = false → n ≠ 0 → bs.length = n.toNat →
    r ≤ s.blk.ctrl.retry.toNat → q ≤ s.blk.ctrl.retry.toNat →
    s.partner.answers = addressAnswers r ++ ackAnswer :: (addressAnswers q ++ (bs.map byteAnswer ++ rest)) →
    ∃ t, exec (.xferWR wb n) s = .next t ∧
      (∀ k, k < 6 + n.toNat + 2 * (r + q) → (engineRun k t).blk.eng.phase = .run) ∧
      (let u := engineRun (6 + n.toNat + 2 * (r + q)) t;
        u.blk.eng.phase = .idle ∧
        u = { s with
          blk := { s.blk with
            data := payloadOf bs
            status := { s.blk.status with nbytes := n, err := 0, iocode := 0, busy := false, isDone := true }
            eng := u.blk.eng }
          bus := ⟨false, s.bus.trace ++ asEvents (frameWR s.blk.ctrl.addr wb bs r q)⟩
          partner := { s.partner with answers := rest } })

/-- XFER.R n whose address byte is NACKed r times within the budget: 3 + n + 2r symbols; DATA the n bytes received, the
rest 0, and NBYTES n (R105, R112, R114, R122, R123). -/
def Obligations.XferRSucceeds : Prop :=
  ∀ (s : State) (n : BitVec 2) (bs : List Byte) (r : Nat) (rest : List Answer),
    s.blk.status.isOpen = true → s.partner.holdsScl = false → n ≠ 0 → bs.length = n.toNat →
    r ≤ s.blk.ctrl.retry.toNat →
    s.partner.answers = addressAnswers r ++ (bs.map byteAnswer ++ rest) →
    ∃ t, exec (.xferR n) s = .next t ∧
      (∀ k, k < 3 + n.toNat + 2 * r → (engineRun k t).blk.eng.phase = .run) ∧
      (let u := engineRun (3 + n.toNat + 2 * r) t;
        u.blk.eng.phase = .idle ∧
        u = { s with
          blk := { s.blk with
            data := payloadOf bs
            status := { s.blk.status with nbytes := n, err := 0, iocode := 0, busy := false, isDone := true }
            eng := u.blk.eng }
          bus := ⟨false, s.bus.trace ++ asEvents (frameR s.blk.ctrl.addr bs r)⟩
          partner := { s.partner with answers := rest } })

/-- An address byte NACKed RETRY + 1 times: it is sent RETRY + 1 times, each but the first after a repeated START, then the
engine emits P and completes with ERR = 3 and IOCODE = 1; no register but STATUS changes. For each bus command at its
first segment (R108, R110). -/
def Obligations.AddressNackSpendsTheBudget : Prop :=
  ∀ (s : State) (i : Instr) (rest : List Answer), s.blk.status.isOpen = true → s.partner.holdsScl = false →
    ((∃ wb, i = .xferW wb) ∨ (∃ wb n, i = .xferWR wb n) ∨ ∃ n, i = .xferR n) →
    s.partner.answers = List.replicate (s.blk.ctrl.retry.toNat + 1) nackAnswer ++ rest →
    ∃ t, exec i s = .next t ∧
      (let u := engineRun (3 + 2 * s.blk.ctrl.retry.toNat) t;
        u.blk.eng.phase = .idle ∧
        u = { s with
          blk := { s.blk with
            status := { s.blk.status with err := 3, iocode := 1, busy := false, isDone := true }
            eng := u.blk.eng }
          bus := ⟨false, s.bus.trace ++ asEvents (.start ::
            addressRefused (addressByte s.blk.ctrl.addr (isReadSegment (opcode i) 0)) s.blk.ctrl.retry.toNat ++ [.stop])⟩
          partner := { s.partner with answers := rest } })

/-- The not-ready signal: XFER.WR whose read address is NACKed RETRY + 1 times after its byte was taken completes with
ERR = 3 and IOCODE = 1, DATA unchanged (R108, R110, R121). -/
def Obligations.NotReadyReadAddressFails : Prop :=
  ∀ (s : State) (wb : Byte) (n : BitVec 2) (r : Nat) (rest : List Answer),
    s.blk.status.isOpen = true → s.partner.holdsScl = false → r ≤ s.blk.ctrl.retry.toNat →
    s.partner.answers =
      addressAnswers r ++ ackAnswer :: (List.replicate (s.blk.ctrl.retry.toNat + 1) nackAnswer ++ rest) →
    ∃ t, exec (.xferWR wb n) s = .next t ∧
      (let u := engineRun (6 + 2 * (r + s.blk.ctrl.retry.toNat)) t;
        u.blk.eng.phase = .idle ∧
        u = { s with
          blk := { s.blk with
            status := { s.blk.status with err := 3, iocode := 1, busy := false, isDone := true }
            eng := u.blk.eng }
          bus := ⟨false, s.bus.trace ++ asEvents (.start :: addressSymbols (addressByte s.blk.ctrl.addr false) r
            ++ [.tx wb .ack, .repStart]
            ++ addressRefused (addressByte s.blk.ctrl.addr true) s.blk.ctrl.retry.toNat ++ [.stop])⟩
          partner := { s.partner with answers := rest } })

/-- The write data phase sends WBYTE. An ACK continues: with the read segment of XFER.WR, else with the STOP of success. A
NACK is not retried: the next symbol is P, and the command completes with ERR = 3 and IOCODE = 2 (R105, R109). That
`eng.seg` becomes 1 in the step of the ACK, and what `why` then is, are the model's reading (assumptions 17 and 4). -/
def Obligations.WriteDataNackIsNotRetried : Prop :=
  ∀ s : State, s.blk.eng.phase = .run → s.partner.holdsScl = false → s.blk.eng.step = .wdata →
    (s.cfg.arbPossible = false ∨ s.answer.arb = false) →
    (s.answer.ack = .ack →
      (let t := engineStep s;
        t.blk = { s.blk with eng := t.blk.eng } ∧ t.blk.eng.phase = .run ∧
        t.bus = ⟨true, s.bus.trace ++ asEvents [.tx s.blk.eng.wbyte .ack]⟩ ∧
        (if s.blk.eng.op = 0x4 ∧ s.blk.eng.seg = 0
          then t.blk.eng.step = .start ∧ t.blk.eng.seg = 1 ∧ t.blk.eng.why = .segment
          else t.blk.eng.step = .stop ∧ t.blk.eng.seg = s.blk.eng.seg ∧ t.blk.eng.why = .success))) ∧
    (s.answer.ack = .nack →
      (engineStep s).blk.eng.phase = .run ∧
      (let u := engineRun 2 s;
        u.blk.eng.phase = .idle ∧ u.blk.data = s.blk.data ∧
        u.blk.status = { s.blk.status with err := 3, iocode := 2, busy := false, isDone := true } ∧
        u.bus = ⟨false, s.bus.trace ++ asEvents [.tx s.blk.eng.wbyte .nack, .stop]⟩))

/-- Arbitration loss in any `tx` or `rx`, where ARB_POSSIBLE: the lines are released at once, no P is emitted, and the
command completes with ERR = 3, IOCODE = 3, without a retry. Where ARB_POSSIBLE is false, no engine step completes with
IOCODE = 3 (R111). -/
def Obligations.ArbitrationLossEndsTheCommand : Prop :=
  (∀ s : State, s.blk.eng.phase = .run → s.partner.holdsScl = false → s.cfg.arbPossible = true → s.answer.arb = true →
    (s.blk.eng.step = .addr ∨ s.blk.eng.step = .wdata ∨ s.blk.eng.step = .rdata) →
    (engineStep s).blk = { s.blk with
      status := { s.blk.status with err := 3, iocode := 3, busy := false, isDone := true }
      eng := { s.blk.eng with phase := .idle } } ∧
    (engineStep s).bus.held = false ∧
    ∃ y : Symbol, ((∃ b, y = .tx b .arb) ∨ y = .rxArb) ∧ (engineStep s).bus.trace = s.bus.trace ++ [.sym y]) ∧
  (∀ s : State, s.cfg.arbPossible = false → s.blk.eng.phase = .run → (engineStep s).blk.eng.phase = .idle →
    (engineStep s).blk.status.iocode ≠ 3)

/-- What a successful completion delivers: for XFER.WR and XFER.R DATA is the first RLEN received bytes, byte 0 highest,
the others 0, and NBYTES is RLEN; XFER.W changes neither (R112). -/
def Obligations.SuccessDeliversTheBytes : Prop :=
  ∀ s : State, s.blk.eng.phase = .run → s.partner.holdsScl = false → s.blk.eng.step = .stop →
    s.blk.eng.why = .success →
    (engineStep s).blk.status.err = 0 ∧ (engineStep s).blk.status.iocode = 0 ∧
    (engineStep s).blk.status.busy = false ∧ (engineStep s).blk.status.isDone = true ∧
    (engineStep s).blk.eng.phase = .idle ∧
    (if s.blk.eng.op = 0x4#4 ∨ s.blk.eng.op = 0x5#4 then
      (engineStep s).blk.status.nbytes = s.blk.eng.rlen ∧
      byte0 (engineStep s).blk.data = s.blk.eng.rx0 ∧
      byte1 (engineStep s).blk.data = (if 2 ≤ s.blk.eng.rlen.toNat then s.blk.eng.rx1 else 0) ∧
      byte2 (engineStep s).blk.data = (if s.blk.eng.rlen.toNat = 3 then s.blk.eng.rx2 else 0)
    else (engineStep s).blk.status.nbytes = s.blk.status.nbytes ∧ (engineStep s).blk.data = s.blk.data)

/-- A running bus command ends: while the partner does not hold SCL it completes within 69 engine steps, the 6 + 3 + 2·30
symbols of the longest command, whatever the partner answers; and where the partner may stretch the clock but releases SCL
within finite time (the premise of R207), and neither reset nor a step without a next state comes, it completes within 69
steps of the machine after the last listed turn (R110, R123, R173, R207; the turns, assumption 2). -/
def Obligations.EveryBusCommandEnds : Prop :=
  (∀ s : State, s.Inv → s.blk.eng.phase = .run → s.partner.holdsScl = false →
    ∃ k, k ≤ 69 ∧ (engineRun k s).blk.eng.phase = .idle ∧ (engineRun k s).blk.status.busy = false ∧
      (engineRun k s).blk.status.isDone = true) ∧
  (∀ s : State, s.Inv → s.blk.eng.phase = .run → ReleasesScl s → Turn.reset ∉ s.turns →
    (∀ k, k ≤ s.turns.length → ∃ t, stepRun k s = .next t) →
    ∃ k t, k ≤ s.turns.length + 69 ∧ stepRun k s = .next t ∧ t.blk.eng.phase = .idle ∧ t.blk.status.busy = false ∧
      t.blk.status.isDone = true)

/-- No engine state survives into a command: two machines that differ only in the engine's hidden state run a bus command
alike, symbol by symbol, and end with the same registers (R31, R33). -/
def Obligations.NoEngineStateSurvives : Prop :=
  ∀ (s : State) (e : Eng) (i : Instr) (k : Nat), i.wf = true →
    ((∃ wb, i = .xferW wb) ∨ (∃ wb n, i = .xferWR wb n) ∨ ∃ n, i = .xferR n) → s.blk.status.isOpen = true →
    ∃ t u : State, exec i s = .next t ∧ exec i (s.setEng e) = .next u ∧
      (engineRun k u).setEng s.blk.eng = (engineRun k t).setEng s.blk.eng ∧
      (engineRun k u).blk.eng.phase = (engineRun k t).blk.eng.phase

/-- The lines (R76): SDA falls while SCL is high in S and Sr, rises in P, and does not move in a byte; a byte's receiver
samples its eight bits MSB first and then the acknowledge bit, 0 for ACK. -/
def Obligations.LineLevelsOfTheSymbols : Prop :=
  (Symbol.start.levels.map sdaMoves = some [false]) ∧ (Symbol.repStart.levels.map sdaMoves = some [false]) ∧
  (Symbol.stop.levels.map sdaMoves = some [true]) ∧
  (∀ (b : Byte) (m : Ack), (Symbol.rx b m).levels.map sdaMoves = some [] ∧
    (Symbol.rx b m).levels.map sampled = some ([b.getLsbD 7, b.getLsbD 6, b.getLsbD 5, b.getLsbD 4, b.getLsbD 3,
      b.getLsbD 2, b.getLsbD 1, b.getLsbD 0, m == .nack])) ∧
  (∀ b : Byte, (Symbol.tx b .ack).levels = (Symbol.rx b .ack).levels ∧
    (Symbol.tx b .nack).levels = (Symbol.rx b .nack).levels)

/-! ### The agents (00_scope.md R8, 30_encoding.md R82, 45_bus_partner.md) -/

/-- The host's lines (R82, R83): a step that is the host's, by its turn or because no turn is listed and the engine has no
step, runs the line at its program counter and moves past it, or jumps; a host past its last line does nothing. A condition
compares the field [hi:lo] of a variable with a number or another field; RET gives ok, a value, or an error kind's code
of R210 with the IOCODE in bits [15:12] and, for `error(s.ERR, s.IOCODE)`, the ERR in bits [11:8] of a STATUS value (R24).
The model's own: variables and labels are numbered, a variable no line has written is 0, and the list of variables is kept
in one form (assumption 8); of several lines with one label the first is
jumped to (assumption 23); a jump to a label no line carries is a fault (assumption 9); a line whose offset is no
register's is refused (assumption 10); the turns (assumption 2). -/
def Obligations.HostLinesDoWhatTheySay : Prop :=
  ∀ (s : State) (rest : List Turn),
    (s.turns = .host :: rest ∨
      (s.turns = [] ∧ rest = [] ∧ (s.blk.eng.phase = .idle ∨ s.partner.holdsScl = true))) →
    varsCanonical s.host.vars →
    (s.host.program[s.host.pc]? = none → step s = .next { s with turns := rest }) ∧
    ∀ l : HostLine, s.host.program[s.host.pc]? = some l →
      let p : State := { s with turns := rest, host := { s.host with pc := s.host.pc + 1 } }
      let look (vars : List (Nat × BitVec 64)) (x : Nat) : BitVec 64 :=
        ((vars.find? fun q => q.1 == x).map fun q => q.2).getD 0
      let field (f : HostField) : Nat := (look s.host.vars f.var).toNat / 2 ^ f.lo % 2 ^ (f.hi + 1 - f.lo)
      let sets (q : State) (x : Nat) (v : BitVec 64) : Prop :=
        ∃ vars, step s = .next { q with host := { q.host with vars := vars } } ∧ varsCanonical vars ∧
          ∀ y, look vars y = if y = x then v else look s.host.vars y
      let jumps (k : Nat) : Prop :=
        (∀ i, s.host.program.findIdx? (· == .label k) = some i →
          step s = .next { p with host := { p.host with pc := i } }) ∧
        (s.host.program.findIdx? (· == .label k) = none → step s = .fault (.undefinedLabel k))
      let code (k : ErrKind) : BitVec 4 :=
        match k with
        | .none => 0
        | .busOpenError => 1
        | .busCloseError => 2
        | .busIOError => 3
        | .deviceNotResetError => 4
        | .checksumError => 5
        | .closed => 6
        | .illegalCommand => 7
      match l with
      | .label _ => step s = .next p
      | .write off v => step s = hostWriteAt off v p
      | .read off x =>
        if off % 4 = 0 ∧ off < 0x100 then
          ∃ u, hostReadAt off p = .next u ∧ sets u x (u.host.rdata.setWidth 64)
        else step s = .refused .unsupportedAccess
      | .sleep ms => step s = .next { p with bus := ⟨s.bus.held, s.bus.trace ++ [.quiet ms]⟩ }
      | .ifGoto c k =>
        let same : Prop :=
          match c.rhs with
          | .num n => field c.lhs = n
          | .field g => field c.lhs = field g
        ((same ↔ c.equal = true) → jumps k) ∧ (¬ (same ↔ c.equal = true) → step s = .next p)
      | .goto k => jumps k
      | .pair x hi lo => sets p x ((look s.host.vars hi <<< 32) ||| (look s.host.vars lo &&& 0xFFFFFFFF))
      | .ret e => step s = .next { p with host := { p.host with
          pc := s.host.program.length
          result := some (match e with
            | .ok => .ok
            | .value x => .value (look s.host.vars x)
            | .error k => .error (code k) 0
            | .errorIo k x => .error (code k) ((look s.host.vars x).extractLsb' 12 4)
            | .errorOf x =>
              .error ((look s.host.vars x).extractLsb' 8 4) ((look s.host.vars x).extractLsb' 12 4)) } }

/-- The partner's own moves touch nothing but the partner: it holds SCL, releases it, or has one more answer ready, in
order; an answer the engine uses is the oldest (R8, R104, R106; answers kept ready in order are the model's form of
draws, assumption 3). -/
def Obligations.PartnerMovesOnlyItself : Prop :=
  ∀ (s : State) (rest : List Turn),
    (s.turns = .partner .holdScl :: rest →
      step s = .next { s with turns := rest, partner := { s.partner with holdsScl := true } }) ∧
    (s.turns = .partner .releaseScl :: rest →
      step s = .next { s with turns := rest, partner := { s.partner with holdsScl := false } }) ∧
    (∀ a, s.turns = .partner (.answer a) :: rest →
      step s = .next { s with turns := rest, partner := { s.partner with answers := s.partner.answers ++ [a] } }) ∧
    (∀ a as, s.partner.answers = a :: as → s.answer = a ∧ s.useAnswer.partner.answers = as)

/-- The slow path's bare read of a conforming sensor (premises of R201 to R205 on every state of the run): init has
succeeded, the bus is released, a trigger's result is not read out yet, its maximum latency past; then XFER.R 3 at address 0x40 takes six symbols and delivers the
conversion's three bytes, each XORed with what corrupted its transfer (R208). Where nothing did, CONV converts them
without an error; where the check of the bytes received fails, it ends with ERR = 5. What the sensor was told is read from
the history, and the premises also say that no arbitration is lost (assumption 13). -/
def Obligations.ReadySensorIsReadAndConverted : Prop :=
  ∀ (c : SensorCommands) (l : SensorLife) (s : State), s.blk.status.isOpen = true → s.partner.holdsScl = false →
    s.bus.held = false → s.blk.ctrl.addr = 0x40 → (s.heard c).settled = true → (s.heard c).asked = .result →
    (s.heard c).conversionOver c = true →
    ∃ t, exec (.xferR 3) s = .next t ∧ ((∀ k, k ≤ 5 → Conforms c l (engineRun k t)) →
      let u := engineRun 6 t
      let sent := l.result (s.heard c).conversions
      let noise := payload (l.noise (s.place + 2)) (l.noise (s.place + 3)) (l.noise (s.place + 4))
      u.blk.eng.phase = .idle ∧ u.blk.status.err = 0 ∧ u.blk.status.nbytes = 3 ∧ u.blk.data = sent ^^^ noise ∧
      ∀ i : Instr, i = .convT ∨ i = .convRH → ∃ w, exec i u = .next w ∧
        (noise = 0 → w.blk.status.err = 0 ∧ w.blk.status.crcOk = true ∧ w.blk.raw = rawOf sent) ∧
        (crcOk (sent ^^^ noise) = false → w.blk.status.err = 5))

/-- An absent device (premise of R201, on every state of the run, outside the sensor's reset window, no transaction having
been cut off by a block reset; with no arbitration lost, assumption 13): a bus command to an address that is not the sensor's completes with ERR = 3 and IOCODE = 1. -/
def Obligations.AbsentDeviceFailsTheCommand : Prop :=
  ∀ (c : SensorCommands) (s : State) (i : Instr), s.blk.status.isOpen = true → s.partner.holdsScl = false →
    s.bus.held = false → s.blk.ctrl.addr ≠ 0x40 → (s.heard c).inResetWindow = false → (s.heard c).cut = false →
    ((∃ wb, i = .xferW wb) ∨ (∃ wb n, i = .xferWR wb n) ∨ ∃ n, i = .xferR n) →
    ∃ t, exec i s = .next t ∧ ((∀ k, AbsentIsNacked c (engineRun k t)) →
      (engineRun (3 + 2 * s.blk.ctrl.retry.toNat) t).blk.eng.phase = .idle ∧
      (engineRun (3 + 2 * s.blk.ctrl.retry.toNat) t).blk.status.err = 3 ∧
      (engineRun (3 + 2 * s.blk.ctrl.retry.toNat) t).blk.status.iocode = 1)

/-- RDUSER to a conforming sensor that took a soft reset, its 15 ms past, no conversion running and nothing strange since:
seven symbols, DATA[23:16] is 0x02, XORed with what corrupted its transfer (R208), and where nothing did init has succeeded.
Before init has succeeded the sensor's ACKs of its address and its command byte are draws (D49), so they are
hypotheses, beside the premise of R202; afterwards the premises of R201 to R205 give them, with the one that it takes the
command byte (assumption 13). -/
def Obligations.ResetSensorGivesItsUserRegister : Prop :=
  ∀ (c : SensorCommands) (l : SensorLife) (s : State), s.blk.status.isOpen = true → s.partner.holdsScl = false →
    s.bus.held = false → s.blk.ctrl.addr = 0x40 → c.readUser ∉ [c.softReset, c.trigT, c.trigRH] →
    (s.heard c).known = true → (s.heard c).inResetWindow = false → (s.heard c).mayConvert c = false →
    ∃ t, exec (.xferWR c.readUser 1) s = .next t ∧
      ((∀ k, k ≤ 6 → UserRegisterReset c l (engineRun k t) ∧
          ((engineRun k t).blk.eng.step = .addr ∨ (engineRun k t).blk.eng.step = .wdata →
            (engineRun k t).answer.ack = .ack ∧ (engineRun k t).answer.arb = false)) ∨
        ((s.heard c).settled = true ∧
          ∀ k, k ≤ 6 → Conforms c l (engineRun k t) ∧ TakesItsCommands c (engineRun k t)) →
        let u := engineRun 7 t
        u.blk.eng.phase = .idle ∧ u.blk.status.err = 0 ∧ u.blk.status.nbytes = 1 ∧
        u.blk.data = payload (0x02 ^^^ l.noise (s.place + 5)) 0 0 ∧
        (l.noise (s.place + 5) = 0 → (u.heard c).settled = true))

/-! ### Invariants -/

/-- The invariant holds at reset. -/
def Obligations.ResetMeetsTheInvariant : Prop := State.reset.Inv

/-- Every step keeps the invariant, whoever moves and whatever the partner answers (R24, R31, R105, R107, R113, R172,
R216, R219). -/
def Obligations.EveryStepKeepsTheInvariant : Prop := ∀ s t : State, s.Inv → step s = .next t → t.Inv
end

