-- ==== Sys2Proof/Laws/Decode.lean ====
section
/-! SUPPORT. What the decoder and the encoder answer, once for each command. -/

namespace Sys2Proof

/-- A legal word's reserved fields are 0, and its command is the one its OP names, with the fields its form needs. -/
theorem decode_ok_cases {v : Word} {i : Instr} (h : decode v = .ok i) :
    rsv1Field v = 0 ∧ rsv2Field v = 0 ∧
      ((opField v = 0x0 ∧ wbyteField v = 0 ∧ rlenField v = 0 ∧ i = .nop) ∨
        (opField v = 0x1 ∧ wbyteField v = 0 ∧ rlenField v = 0 ∧ i = .busOpen) ∨
        (opField v = 0x2 ∧ wbyteField v = 0 ∧ rlenField v = 0 ∧ i = .busClose) ∨
        (opField v = 0x3 ∧ rlenField v = 0 ∧ i = .xferW (wbyteField v)) ∨
        (opField v = 0x4 ∧ rlenField v ≠ 0 ∧ i = .xferWR (wbyteField v) (rlenField v)) ∨
        (opField v = 0x5 ∧ wbyteField v = 0 ∧ rlenField v ≠ 0 ∧ i = .xferR (rlenField v)) ∨
        (opField v = 0x6 ∧ wbyteField v = 0 ∧ rlenField v = 0 ∧ i = .crcChk) ∨
        (opField v = 0x7 ∧ wbyteField v = 0 ∧ rlenField v = 0 ∧ i = .convT) ∨
        (opField v = 0x8 ∧ wbyteField v = 0 ∧ rlenField v = 0 ∧ i = .convRH) ∨
        (opField v = 0x9 ∧ wbyteField v = 0 ∧ rlenField v = 0 ∧ i = .clrstat)) := by
  have hp : ∀ j, decodePlain j v = .ok i → wbyteField v = 0 ∧ rlenField v = 0 ∧ i = j := by
    intro j hj
    unfold decodePlain at hj
    split at hj
    · rename_i hc; exact ⟨hc.1, hc.2, by cases hj; rfl⟩
    · cases hj
  unfold decode at h
  split at h
  · cases h
  rename_i hr
  simp only [not_or, ne_eq, not_not] at hr
  refine ⟨hr.1, hr.2, ?_⟩
  split at h
  · rename_i ho; have := hp _ h; simp_all
  split at h
  · rename_i ho; have := hp _ h; simp_all
  split at h
  · rename_i ho; have := hp _ h; simp_all
  split at h
  · rename_i ho
    unfold decodeXferW at h
    split at h
    · cases h; simp_all
    · cases h
  split at h
  · rename_i ho
    unfold decodeXferWR at h
    split at h
    · cases h
    · cases h; simp_all
  split at h
  · rename_i ho
    unfold decodeXferR at h
    split at h
    · cases h
    · split at h
      · cases h
      · cases h; simp_all
  split at h
  · rename_i ho; have := hp _ h; simp_all
  split at h
  · rename_i ho; have := hp _ h; simp_all
  split at h
  · rename_i ho; have := hp _ h; simp_all
  split at h
  · rename_i ho; have := hp _ h; simp_all
  cases h

/-- The commands a legal word decodes to are well formed. -/
theorem decode_ok_wf {v : Word} {i : Instr} (h : decode v = .ok i) : i.wf = true := by
  obtain ⟨-, -, hc⟩ := decode_ok_cases h
  rcases hc with ⟨-, -, -, rfl⟩ | ⟨-, -, -, rfl⟩ | ⟨-, -, -, rfl⟩ | ⟨-, -, rfl⟩ | ⟨-, hn, rfl⟩ | ⟨-, -, hn, rfl⟩ |
    ⟨-, -, -, rfl⟩ | ⟨-, -, -, rfl⟩ | ⟨-, -, -, rfl⟩ | ⟨-, -, -, rfl⟩ <;> simp_all [Instr.wf]

/-- The row a word of 32 bits names is what the decoder reads from it. -/
theorem decodeTableWord_eq (w : Nat) : decodeTableWord 32 w = (decode (BitVec.ofNat 32 w)).toOption := rfl

end Sys2Proof
end

