-- ==== Sys2Proof/Laws/Operands.lean ====
section
/-! SUPPORT. The layout of the payload's bytes (R27, R54), once. -/

namespace Sys2Proof.Machine

@[simp] theorem byte0_payload (a b c : Byte) : byte0 (payload a b c) = a := by
  ext k hk
  simp [byte0, payload]
  interval_cases k <;> simp

@[simp] theorem byte1_payload (a b c : Byte) : byte1 (payload a b c) = b := by
  ext k hk
  simp [byte1, payload]
  interval_cases k <;> simp

@[simp] theorem byte2_payload (a b c : Byte) : byte2 (payload a b c) = c := by
  ext k hk
  simp [byte2, payload]
  interval_cases k <;> simp

/-- A payload is made of its three bytes. -/
theorem payload_bytes (d : BitVec 24) : payload (byte0 d) (byte1 d) (byte2 d) = d := by
  ext k hk
  simp [byte0, byte1, byte2, payload, BitVec.getElem_or]
  interval_cases k <;> simp

/-- The register at an aligned offset of the window exists. -/
theorem Reg.ofOffset_some {off : Nat} (h4 : off % 4 = 0) (hw : off < 0x100) : ∃ r, Reg.ofOffset off = some r := by
  unfold Reg.ofOffset
  rw [if_neg (by omega)]
  repeat' split
  all_goals exact ⟨_, rfl⟩

/-- The reserved offsets and the read-only registers are those that are none of CTRL, CMD and DATA. -/
theorem Reg.ofOffset_inv {off : Nat} {r : Reg} (h : Reg.ofOffset off = some r) :
    off % 4 = 0 ∧ off < 0x100 ∧ (r = .ctrl ↔ off = 0x00) ∧ (r = .cmd ↔ off = 0x08) ∧ (r = .data ↔ off = 0x0C) := by
  unfold Reg.ofOffset at h
  split_ifs at h with h1 h2 h3 h4 h5 h6 h7 h8 h9 <;> cases h <;> simp_all

/-- An access admitted is one word wide, at its offset above the window's base (R52). -/
theorem locate_ok {base addr width off : Nat} (h : locate base addr width = .ok off) : width = 4 ∧ addr = base + off := by
  unfold locate at h
  split_ifs at h with h1
  · cases h
    omega

end Sys2Proof.Machine
end

