-- ==== Sys2Proof/Laws/State.lean ====
section
/-! SUPPORT. One lemma per field per update of the state, so that no proof unfolds a record update. -/

namespace Sys2Proof.Machine

section
variable (t : Status)

@[simp] theorem Status.launched_nbytes : t.launched.nbytes = 0 := rfl
@[simp] theorem Status.launched_iocode : t.launched.iocode = 0 := rfl
@[simp] theorem Status.launched_err : t.launched.err = 0 := rfl
@[simp] theorem Status.launched_ovr : t.launched.ovr = t.ovr := rfl
@[simp] theorem Status.launched_crcOk : t.launched.crcOk = t.crcOk := rfl
@[simp] theorem Status.launched_isDone : t.launched.isDone = false := rfl
@[simp] theorem Status.launched_isOpen : t.launched.isOpen = t.isOpen := rfl
@[simp] theorem Status.launched_busy : t.launched.busy = true := rfl
end

section
variable (t : Status) (err io : BitVec 4)

@[simp] theorem Status.completed_nbytes : (t.completed err io).nbytes = t.nbytes := rfl
@[simp] theorem Status.completed_iocode : (t.completed err io).iocode = io := rfl
@[simp] theorem Status.completed_err : (t.completed err io).err = err := rfl
@[simp] theorem Status.completed_ovr : (t.completed err io).ovr = t.ovr := rfl
@[simp] theorem Status.completed_crcOk : (t.completed err io).crcOk = t.crcOk := rfl
@[simp] theorem Status.completed_isDone : (t.completed err io).isDone = true := rfl
@[simp] theorem Status.completed_isOpen : (t.completed err io).isOpen = t.isOpen := rfl
@[simp] theorem Status.completed_busy : (t.completed err io).busy = false := rfl
end

section
variable (t : Status)

@[simp] theorem Status.overrun_nbytes : t.overrun.nbytes = t.nbytes := rfl
@[simp] theorem Status.overrun_iocode : t.overrun.iocode = t.iocode := rfl
@[simp] theorem Status.overrun_err : t.overrun.err = t.err := rfl
@[simp] theorem Status.overrun_ovr : t.overrun.ovr = true := rfl
@[simp] theorem Status.overrun_crcOk : t.overrun.crcOk = t.crcOk := rfl
@[simp] theorem Status.overrun_isDone : t.overrun.isDone = t.isDone := rfl
@[simp] theorem Status.overrun_isOpen : t.overrun.isOpen = t.isOpen := rfl
@[simp] theorem Status.overrun_busy : t.overrun.busy = t.busy := rfl
end

section
variable (t : Status)

@[simp] theorem Status.cleared_nbytes : t.cleared.nbytes = t.nbytes := rfl
@[simp] theorem Status.cleared_iocode : t.cleared.iocode = t.iocode := rfl
@[simp] theorem Status.cleared_err : t.cleared.err = t.err := rfl
@[simp] theorem Status.cleared_ovr : t.cleared.ovr = false := rfl
@[simp] theorem Status.cleared_crcOk : t.cleared.crcOk = false := rfl
@[simp] theorem Status.cleared_isDone : t.cleared.isDone = t.isDone := rfl
@[simp] theorem Status.cleared_isOpen : t.cleared.isOpen = t.isOpen := rfl
@[simp] theorem Status.cleared_busy : t.cleared.busy = t.busy := rfl
end

section
variable (t : Status) (ok : Bool)

@[simp] theorem Status.withCrc_nbytes : (t.withCrc ok).nbytes = t.nbytes := rfl
@[simp] theorem Status.withCrc_iocode : (t.withCrc ok).iocode = t.iocode := rfl
@[simp] theorem Status.withCrc_err : (t.withCrc ok).err = t.err := rfl
@[simp] theorem Status.withCrc_ovr : (t.withCrc ok).ovr = t.ovr := rfl
@[simp] theorem Status.withCrc_crcOk : (t.withCrc ok).crcOk = ok := rfl
@[simp] theorem Status.withCrc_isDone : (t.withCrc ok).isDone = t.isDone := rfl
@[simp] theorem Status.withCrc_isOpen : (t.withCrc ok).isOpen = t.isOpen := rfl
@[simp] theorem Status.withCrc_busy : (t.withCrc ok).busy = t.busy := rfl
end

section
variable (t : Status) (o : Bool)

@[simp] theorem Status.withOpen_nbytes : (t.withOpen o).nbytes = t.nbytes := rfl
@[simp] theorem Status.withOpen_iocode : (t.withOpen o).iocode = t.iocode := rfl
@[simp] theorem Status.withOpen_err : (t.withOpen o).err = t.err := rfl
@[simp] theorem Status.withOpen_ovr : (t.withOpen o).ovr = t.ovr := rfl
@[simp] theorem Status.withOpen_crcOk : (t.withOpen o).crcOk = t.crcOk := rfl
@[simp] theorem Status.withOpen_isDone : (t.withOpen o).isDone = t.isDone := rfl
@[simp] theorem Status.withOpen_isOpen : (t.withOpen o).isOpen = o := rfl
@[simp] theorem Status.withOpen_busy : (t.withOpen o).busy = t.busy := rfl
end

section
variable (b : Block) (err io : BitVec 4)

@[simp] theorem Block.complete_ctrl : (b.complete err io).ctrl = b.ctrl := rfl
@[simp] theorem Block.complete_status : (b.complete err io).status = b.status.completed err io := rfl
@[simp] theorem Block.complete_cmd : (b.complete err io).cmd = b.cmd := rfl
@[simp] theorem Block.complete_data : (b.complete err io).data = b.data := rfl
@[simp] theorem Block.complete_raw : (b.complete err io).raw = b.raw := rfl
@[simp] theorem Block.complete_res64 : (b.complete err io).res64 = b.res64 := rfl
@[simp] theorem Block.complete_res32 : (b.complete err io).res32 = b.res32 := rfl
@[simp] theorem Block.complete_eng : (b.complete err io).eng = { b.eng with phase := .idle } := rfl
end

section
variable (b : Block) (v : Word)

@[simp] theorem Block.launched_ctrl : (b.launched v).ctrl = b.ctrl := rfl
@[simp] theorem Block.launched_status : (b.launched v).status = b.status.launched := rfl
@[simp] theorem Block.launched_cmd : (b.launched v).cmd = v := rfl
@[simp] theorem Block.launched_data : (b.launched v).data = b.data := rfl
@[simp] theorem Block.launched_raw : (b.launched v).raw = b.raw := rfl
@[simp] theorem Block.launched_res64 : (b.launched v).res64 = b.res64 := rfl
@[simp] theorem Block.launched_res32 : (b.launched v).res32 = b.res32 := rfl
@[simp] theorem Block.launched_eng : (b.launched v).eng = { b.eng with phase := .run } := rfl
end

section
variable (b : Block) (op : BitVec 4) (wb : Byte) (n : BitVec 2)

@[simp] theorem Block.startEngine_ctrl : (b.startEngine op wb n).ctrl = b.ctrl := rfl
@[simp] theorem Block.startEngine_status : (b.startEngine op wb n).status = b.status := rfl
@[simp] theorem Block.startEngine_cmd : (b.startEngine op wb n).cmd = b.cmd := rfl
@[simp] theorem Block.startEngine_data : (b.startEngine op wb n).data = b.data := rfl
@[simp] theorem Block.startEngine_raw : (b.startEngine op wb n).raw = b.raw := rfl
@[simp] theorem Block.startEngine_res64 : (b.startEngine op wb n).res64 = b.res64 := rfl
@[simp] theorem Block.startEngine_res32 : (b.startEngine op wb n).res32 = b.res32 := rfl
end

section
variable (b : Block)

@[simp] theorem Block.overrun_ctrl : b.overrun.ctrl = b.ctrl := rfl
@[simp] theorem Block.overrun_status : b.overrun.status = b.status.overrun := rfl
@[simp] theorem Block.overrun_cmd : b.overrun.cmd = b.cmd := rfl
@[simp] theorem Block.overrun_data : b.overrun.data = b.data := rfl
@[simp] theorem Block.overrun_raw : b.overrun.raw = b.raw := rfl
@[simp] theorem Block.overrun_res64 : b.overrun.res64 = b.res64 := rfl
@[simp] theorem Block.overrun_res32 : b.overrun.res32 = b.res32 := rfl
@[simp] theorem Block.overrun_eng : b.overrun.eng = b.eng := rfl
end

section
variable (b : Block)

@[simp] theorem Block.checkCrc_ctrl : b.checkCrc.ctrl = b.ctrl := rfl
@[simp] theorem Block.checkCrc_status : b.checkCrc.status = b.status.withCrc (crcOk b.data) := rfl
@[simp] theorem Block.checkCrc_cmd : b.checkCrc.cmd = b.cmd := rfl
@[simp] theorem Block.checkCrc_data : b.checkCrc.data = b.data := rfl
@[simp] theorem Block.checkCrc_raw : b.checkCrc.raw = b.raw := rfl
@[simp] theorem Block.checkCrc_res64 : b.checkCrc.res64 = b.res64 := rfl
@[simp] theorem Block.checkCrc_res32 : b.checkCrc.res32 = b.res32 := rfl
@[simp] theorem Block.checkCrc_eng : b.checkCrc.eng = b.eng := rfl
end

section
variable (b : Block) (k1 k2 : BitVec 64)

@[simp] theorem Block.convert_ctrl : (b.convert k1 k2).ctrl = b.ctrl := rfl
@[simp] theorem Block.convert_status : (b.convert k1 k2).status = b.status := rfl
@[simp] theorem Block.convert_cmd : (b.convert k1 k2).cmd = b.cmd := rfl
@[simp] theorem Block.convert_data : (b.convert k1 k2).data = b.data := rfl
@[simp] theorem Block.convert_raw : (b.convert k1 k2).raw = rawOf b.data := rfl
@[simp] theorem Block.convert_res64 : (b.convert k1 k2).res64 = measure64 (rawOf b.data) k1 k2 := rfl
@[simp] theorem Block.convert_res32 : (b.convert k1 k2).res32 = measure32 (rawOf b.data) k1 k2 := rfl
@[simp] theorem Block.convert_eng : (b.convert k1 k2).eng = b.eng := rfl
end

section
variable (b : Block) (op : BitVec 4) (wb : Byte) (n : BitVec 2)

@[simp] theorem Block.startEngine_eng_phase : (b.startEngine op wb n).eng.phase = .run := rfl
@[simp] theorem Block.startEngine_eng_op : (b.startEngine op wb n).eng.op = op := rfl
@[simp] theorem Block.startEngine_eng_wbyte : (b.startEngine op wb n).eng.wbyte = wb := rfl
@[simp] theorem Block.startEngine_eng_rlen : (b.startEngine op wb n).eng.rlen = n := rfl
@[simp] theorem Block.startEngine_eng_addr : (b.startEngine op wb n).eng.addr = b.ctrl.addr := rfl
@[simp] theorem Block.startEngine_eng_retry : (b.startEngine op wb n).eng.retry = b.ctrl.retry := rfl
@[simp] theorem Block.startEngine_eng_seg : (b.startEngine op wb n).eng.seg = 0 := rfl
@[simp] theorem Block.startEngine_eng_idx : (b.startEngine op wb n).eng.idx = 0 := rfl
@[simp] theorem Block.startEngine_eng_left : (b.startEngine op wb n).eng.left = b.eng.left := rfl
@[simp] theorem Block.startEngine_eng_step : (b.startEngine op wb n).eng.step = .start := rfl
@[simp] theorem Block.startEngine_eng_rx0 : (b.startEngine op wb n).eng.rx0 = b.eng.rx0 := rfl
@[simp] theorem Block.startEngine_eng_rx1 : (b.startEngine op wb n).eng.rx1 = b.eng.rx1 := rfl
@[simp] theorem Block.startEngine_eng_rx2 : (b.startEngine op wb n).eng.rx2 = b.eng.rx2 := rfl
@[simp] theorem Block.startEngine_eng_why : (b.startEngine op wb n).eng.why = .segment := rfl
end

section
variable (s : State) (err io : BitVec 4)

@[simp] theorem State.complete_cfg : (s.complete err io).cfg = s.cfg := rfl
@[simp] theorem State.complete_blk : (s.complete err io).blk = s.blk.complete err io := rfl
@[simp] theorem State.complete_bus : (s.complete err io).bus = s.bus := rfl
@[simp] theorem State.complete_partner : (s.complete err io).partner = s.partner := rfl
@[simp] theorem State.complete_host : (s.complete err io).host = s.host := rfl
@[simp] theorem State.complete_turns : (s.complete err io).turns = s.turns := rfl
end

section
variable (s : State) (k : ErrKind) (io : BitVec 4)

@[simp] theorem State.raise_cfg : (s.raise k io).cfg = s.cfg := rfl
@[simp] theorem State.raise_blk : (s.raise k io).blk = s.blk.complete k.code io := rfl
@[simp] theorem State.raise_bus : (s.raise k io).bus = s.bus := rfl
@[simp] theorem State.raise_partner : (s.raise k io).partner = s.partner := rfl
@[simp] theorem State.raise_host : (s.raise k io).host = s.host := rfl
@[simp] theorem State.raise_turns : (s.raise k io).turns = s.turns := rfl
end

section
variable (s : State) (v : Word)

@[simp] theorem State.launched_cfg : (s.launched v).cfg = s.cfg := rfl
@[simp] theorem State.launched_blk : (s.launched v).blk = s.blk.launched v := rfl
@[simp] theorem State.launched_bus : (s.launched v).bus = s.bus := rfl
@[simp] theorem State.launched_partner : (s.launched v).partner = s.partner := rfl
@[simp] theorem State.launched_host : (s.launched v).host = s.host := rfl
@[simp] theorem State.launched_turns : (s.launched v).turns = s.turns := rfl
end

section
variable (s : State)

@[simp] theorem State.blockReset_cfg : s.blockReset.cfg = s.cfg := rfl
@[simp] theorem State.blockReset_blk : s.blockReset.blk = Block.reset := rfl
@[simp] theorem State.blockReset_bus : s.blockReset.bus = { s.bus with held := false } := rfl
@[simp] theorem State.blockReset_partner : s.blockReset.partner = s.partner := rfl
@[simp] theorem State.blockReset_host : s.blockReset.host = s.host := rfl
@[simp] theorem State.blockReset_turns : s.blockReset.turns = s.turns := rfl
end

section
variable (s : State) (y : Symbol) (held : Bool)

@[simp] theorem State.emit_cfg : (s.emit y held).cfg = s.cfg := rfl
@[simp] theorem State.emit_blk : (s.emit y held).blk = s.blk := rfl
@[simp] theorem State.emit_bus : (s.emit y held).bus = ⟨held, s.bus.trace ++ [.sym y]⟩ := rfl
@[simp] theorem State.emit_partner : (s.emit y held).partner = s.partner := rfl
@[simp] theorem State.emit_host : (s.emit y held).host = s.host := rfl
@[simp] theorem State.emit_turns : (s.emit y held).turns = s.turns := rfl
end

section
variable (s : State) (e : Eng)

@[simp] theorem State.setEng_cfg : (s.setEng e).cfg = s.cfg := rfl
@[simp] theorem State.setEng_blk_ctrl : (s.setEng e).blk.ctrl = s.blk.ctrl := rfl
@[simp] theorem State.setEng_blk_status : (s.setEng e).blk.status = s.blk.status := rfl
@[simp] theorem State.setEng_blk_cmd : (s.setEng e).blk.cmd = s.blk.cmd := rfl
@[simp] theorem State.setEng_blk_data : (s.setEng e).blk.data = s.blk.data := rfl
@[simp] theorem State.setEng_blk_raw : (s.setEng e).blk.raw = s.blk.raw := rfl
@[simp] theorem State.setEng_blk_res64 : (s.setEng e).blk.res64 = s.blk.res64 := rfl
@[simp] theorem State.setEng_blk_res32 : (s.setEng e).blk.res32 = s.blk.res32 := rfl
@[simp] theorem State.setEng_blk_eng : (s.setEng e).blk.eng = e := rfl
@[simp] theorem State.setEng_bus : (s.setEng e).bus = s.bus := rfl
@[simp] theorem State.setEng_partner : (s.setEng e).partner = s.partner := rfl
@[simp] theorem State.setEng_host : (s.setEng e).host = s.host := rfl
@[simp] theorem State.setEng_turns : (s.setEng e).turns = s.turns := rfl
end

section
variable (s : State) (o : Bool)

@[simp] theorem State.setOpen_cfg : (s.setOpen o).cfg = s.cfg := rfl
@[simp] theorem State.setOpen_blk_ctrl : (s.setOpen o).blk.ctrl = s.blk.ctrl := rfl
@[simp] theorem State.setOpen_blk_status : (s.setOpen o).blk.status = s.blk.status.withOpen o := rfl
@[simp] theorem State.setOpen_blk_cmd : (s.setOpen o).blk.cmd = s.blk.cmd := rfl
@[simp] theorem State.setOpen_blk_data : (s.setOpen o).blk.data = s.blk.data := rfl
@[simp] theorem State.setOpen_blk_raw : (s.setOpen o).blk.raw = s.blk.raw := rfl
@[simp] theorem State.setOpen_blk_res64 : (s.setOpen o).blk.res64 = s.blk.res64 := rfl
@[simp] theorem State.setOpen_blk_res32 : (s.setOpen o).blk.res32 = s.blk.res32 := rfl
@[simp] theorem State.setOpen_blk_eng : (s.setOpen o).blk.eng = s.blk.eng := rfl
@[simp] theorem State.setOpen_bus : (s.setOpen o).bus = s.bus := rfl
@[simp] theorem State.setOpen_partner : (s.setOpen o).partner = s.partner := rfl
@[simp] theorem State.setOpen_host : (s.setOpen o).host = s.host := rfl
@[simp] theorem State.setOpen_turns : (s.setOpen o).turns = s.turns := rfl
end

section
variable (s : State) (v : Word)

@[simp] theorem State.withRead_cfg : (s.withRead v).cfg = s.cfg := rfl
@[simp] theorem State.withRead_blk : (s.withRead v).blk = s.blk := rfl
@[simp] theorem State.withRead_bus : (s.withRead v).bus = s.bus := rfl
@[simp] theorem State.withRead_partner : (s.withRead v).partner = s.partner := rfl
@[simp] theorem State.withRead_host_program : (s.withRead v).host.program = s.host.program := rfl
@[simp] theorem State.withRead_host_pc : (s.withRead v).host.pc = s.host.pc := rfl
@[simp] theorem State.withRead_host_vars : (s.withRead v).host.vars = s.host.vars := rfl
@[simp] theorem State.withRead_host_result : (s.withRead v).host.result = s.host.result := rfl
@[simp] theorem State.withRead_host_rdata : (s.withRead v).host.rdata = v := rfl
@[simp] theorem State.withRead_turns : (s.withRead v).turns = s.turns := rfl
end

section
variable (s : State) (pc : Nat)

@[simp] theorem State.setHostPc_cfg : (s.setHostPc pc).cfg = s.cfg := rfl
@[simp] theorem State.setHostPc_blk : (s.setHostPc pc).blk = s.blk := rfl
@[simp] theorem State.setHostPc_bus : (s.setHostPc pc).bus = s.bus := rfl
@[simp] theorem State.setHostPc_partner : (s.setHostPc pc).partner = s.partner := rfl
@[simp] theorem State.setHostPc_host_program : (s.setHostPc pc).host.program = s.host.program := rfl
@[simp] theorem State.setHostPc_host_pc : (s.setHostPc pc).host.pc = pc := rfl
@[simp] theorem State.setHostPc_host_vars : (s.setHostPc pc).host.vars = s.host.vars := rfl
@[simp] theorem State.setHostPc_host_result : (s.setHostPc pc).host.result = s.host.result := rfl
@[simp] theorem State.setHostPc_host_rdata : (s.setHostPc pc).host.rdata = s.host.rdata := rfl
@[simp] theorem State.setHostPc_turns : (s.setHostPc pc).turns = s.turns := rfl
end

section
variable (s : State) (x : Nat) (v : BitVec 64)

@[simp] theorem State.setHostVar_cfg : (s.setHostVar x v).cfg = s.cfg := rfl
@[simp] theorem State.setHostVar_blk : (s.setHostVar x v).blk = s.blk := rfl
@[simp] theorem State.setHostVar_bus : (s.setHostVar x v).bus = s.bus := rfl
@[simp] theorem State.setHostVar_partner : (s.setHostVar x v).partner = s.partner := rfl
@[simp] theorem State.setHostVar_host_program : (s.setHostVar x v).host.program = s.host.program := rfl
@[simp] theorem State.setHostVar_host_pc : (s.setHostVar x v).host.pc = s.host.pc := rfl
@[simp] theorem State.setHostVar_host_vars : (s.setHostVar x v).host.vars = setVar s.host.vars x v := rfl
@[simp] theorem State.setHostVar_host_result : (s.setHostVar x v).host.result = s.host.result := rfl
@[simp] theorem State.setHostVar_host_rdata : (s.setHostVar x v).host.rdata = s.host.rdata := rfl
@[simp] theorem State.setHostVar_turns : (s.setHostVar x v).turns = s.turns := rfl
end

section
variable (s : State) (ms : Nat)

@[simp] theorem State.pause_cfg : (s.pause ms).cfg = s.cfg := rfl
@[simp] theorem State.pause_blk : (s.pause ms).blk = s.blk := rfl
@[simp] theorem State.pause_bus_held : (s.pause ms).bus.held = s.bus.held := rfl
@[simp] theorem State.pause_bus_trace : (s.pause ms).bus.trace = s.bus.trace ++ [.quiet ms] := rfl
@[simp] theorem State.pause_partner : (s.pause ms).partner = s.partner := rfl
@[simp] theorem State.pause_host : (s.pause ms).host = s.host := rfl
@[simp] theorem State.pause_turns : (s.pause ms).turns = s.turns := rfl
end

section
variable (s : State) (r : HostResult)

@[simp] theorem State.returnHost_cfg : (s.returnHost r).cfg = s.cfg := rfl
@[simp] theorem State.returnHost_blk : (s.returnHost r).blk = s.blk := rfl
@[simp] theorem State.returnHost_bus : (s.returnHost r).bus = s.bus := rfl
@[simp] theorem State.returnHost_partner : (s.returnHost r).partner = s.partner := rfl
@[simp] theorem State.returnHost_host_program : (s.returnHost r).host.program = s.host.program := rfl
@[simp] theorem State.returnHost_host_pc : (s.returnHost r).host.pc = s.host.program.length := rfl
@[simp] theorem State.returnHost_host_vars : (s.returnHost r).host.vars = s.host.vars := rfl
@[simp] theorem State.returnHost_host_result : (s.returnHost r).host.result = some r := rfl
@[simp] theorem State.returnHost_host_rdata : (s.returnHost r).host.rdata = s.host.rdata := rfl
@[simp] theorem State.returnHost_turns : (s.returnHost r).turns = s.turns := rfl
end

section
variable (s : State)

@[simp] theorem State.useAnswer_cfg : s.useAnswer.cfg = s.cfg := by unfold State.useAnswer; split <;> rfl
@[simp] theorem State.useAnswer_blk : s.useAnswer.blk = s.blk := by unfold State.useAnswer; split <;> rfl
@[simp] theorem State.useAnswer_bus : s.useAnswer.bus = s.bus := by unfold State.useAnswer; split <;> rfl
@[simp] theorem State.useAnswer_host : s.useAnswer.host = s.host := by unfold State.useAnswer; split <;> rfl
@[simp] theorem State.useAnswer_turns : s.useAnswer.turns = s.turns := by unfold State.useAnswer; split <;> rfl
@[simp] theorem State.useAnswer_holdsScl : s.useAnswer.partner.holdsScl = s.partner.holdsScl := by
  unfold State.useAnswer; split <;> rfl

/-- The first answer ready is the one used. -/
theorem State.answer_of_cons {a : Answer} {rest : List Answer} (h : s.partner.answers = a :: rest) : s.answer = a := by
  simp [State.answer, h]

/-- The answer used is taken off. -/
theorem State.useAnswer_answers_of_cons {a : Answer} {rest : List Answer} (h : s.partner.answers = a :: rest) :
    s.useAnswer.partner.answers = rest := by simp [State.useAnswer, h]

/-- An answer that was ready is no free value: the count of free values stays. -/
theorem State.useAnswer_drawn_of_cons {a : Answer} {rest : List Answer} (h : s.partner.answers = a :: rest) :
    s.useAnswer.partner.drawn = s.partner.drawn := by simp [State.useAnswer, h]

end

@[simp] theorem Eng.receive_phase (e : Eng) (r : Byte) : (e.receive r).phase = e.phase := by
  unfold Eng.receive; split <;> (try split) <;> (try split) <;> rfl
@[simp] theorem Eng.receive_rlen (e : Eng) (r : Byte) : (e.receive r).rlen = e.rlen := by
  unfold Eng.receive; split <;> (try split) <;> (try split) <;> rfl

end Sys2Proof.Machine
end

