-- ==== Sys2Proof/Laws/Ops.lean ====
section
/-! SUPPORT. What each shared operation can do, said once: launch, host writes and reads, the engine's steps, the host's
variables. -/

namespace Sys2Proof.Machine

/-- Every command's meaning answers a next state. -/
theorem exec_next (i : Instr) (s : State) : ∃ t, exec i s = .next t := by
  cases i <;> exact ⟨_, rfl⟩

/-- What a command's launch makes of the block: nothing else changes. -/
def Block.commanded (i : Instr) (b b' : Block) : Prop :=
  match i with
  | .nop => b' = b.complete 0 0
  | .busOpen => b' = { b.complete 0 0 with status := (b.status.withOpen true).completed 0 0 }
  | .busClose =>
    (b.status.isOpen = true ∧ b' = { b.complete 0 0 with status := (b.status.withOpen false).completed 0 0 }) ∨
      (b.status.isOpen = false ∧ b' = b.complete 6 0)
  | .xferW wb => (b.status.isOpen = true ∧ b' = b.startEngine 0x3 wb 0) ∨ (b.status.isOpen = false ∧ b' = b.complete 6 0)
  | .xferWR wb n =>
    (b.status.isOpen = true ∧ b' = b.startEngine 0x4 wb n) ∨ (b.status.isOpen = false ∧ b' = b.complete 6 0)
  | .xferR n => (b.status.isOpen = true ∧ b' = b.startEngine 0x5 0 n) ∨ (b.status.isOpen = false ∧ b' = b.complete 6 0)
  | .crcChk => b' = b.checkCrc.complete 0 0
  | .convT =>
    (crcOk b.data = true ∧ b' = (b.checkCrc.convert kT1 kT2).complete 0 0) ∨
      (crcOk b.data = false ∧ b' = b.checkCrc.complete 5 0)
  | .convRH =>
    (crcOk b.data = true ∧ b' = (b.checkCrc.convert kH1 kH2).complete 0 0) ∨
      (crcOk b.data = false ∧ b' = b.checkCrc.complete 5 0)
  | .clrstat => b' = { b.complete 0 0 with status := b.status.cleared.completed 0 0 }

/-- What a launched bus command can do. -/
theorem launchBus_cases (s : State) (op : BitVec 4) (wb : Byte) (n : BitVec 2) :
    (s.blk.status.isOpen = true ∧ s.launchBus op wb n = { s with blk := s.blk.startEngine op wb n }) ∨
      (s.blk.status.isOpen = false ∧ s.launchBus op wb n = { s with blk := s.blk.complete 6 0 }) := by
  unfold State.launchBus
  cases h : s.blk.status.isOpen
  · exact .inr ⟨rfl, rfl⟩
  · exact .inl ⟨rfl, rfl⟩

/-- What a conversion can do. -/
theorem convCommand_cases (s : State) (k1 k2 : BitVec 64) :
    (crcOk s.blk.data = true ∧ s.convCommand k1 k2 = { s with blk := (s.blk.checkCrc.convert k1 k2).complete 0 0 }) ∨
      (crcOk s.blk.data = false ∧ s.convCommand k1 k2 = { s with blk := s.blk.checkCrc.complete 5 0 }) := by
  unfold State.convCommand
  cases h : crcOk s.blk.data
  · exact .inr ⟨rfl, rfl⟩
  · exact .inl ⟨rfl, rfl⟩

/-- What each command does at its launch. -/
theorem exec_cases {i : Instr} {s t : State} (h : exec i s = .next t) :
    t = { s with blk := t.blk } ∧ Block.commanded i s.blk t.blk := by
  cases i
  case nop => cases h; exact ⟨rfl, rfl⟩
  case busOpen => cases h; exact ⟨rfl, rfl⟩
  case busClose =>
    cases ho : s.blk.status.isOpen <;> simp only [exec, execClose, ho, if_true] at h <;> cases h
    · exact ⟨rfl, .inr ⟨ho, rfl⟩⟩
    · exact ⟨rfl, .inl ⟨ho, rfl⟩⟩
  case xferW wb =>
    cases h
    rcases launchBus_cases s 0x3 wb 0 with ⟨ho, he⟩ | ⟨ho, he⟩ <;> rw [he]
    · exact ⟨rfl, .inl ⟨ho, rfl⟩⟩
    · exact ⟨rfl, .inr ⟨ho, rfl⟩⟩
  case xferWR wb n =>
    cases h
    rcases launchBus_cases s 0x4 wb n with ⟨ho, he⟩ | ⟨ho, he⟩ <;> rw [he]
    · exact ⟨rfl, .inl ⟨ho, rfl⟩⟩
    · exact ⟨rfl, .inr ⟨ho, rfl⟩⟩
  case xferR n =>
    cases h
    rcases launchBus_cases s 0x5 0 n with ⟨ho, he⟩ | ⟨ho, he⟩ <;> rw [he]
    · exact ⟨rfl, .inl ⟨ho, rfl⟩⟩
    · exact ⟨rfl, .inr ⟨ho, rfl⟩⟩
  case crcChk => cases h; exact ⟨rfl, rfl⟩
  case convT =>
    cases h
    rcases convCommand_cases s kT1 kT2 with ⟨ho, he⟩ | ⟨ho, he⟩ <;> rw [he]
    · exact ⟨rfl, .inl ⟨ho, rfl⟩⟩
    · exact ⟨rfl, .inr ⟨ho, rfl⟩⟩
  case convRH =>
    cases h
    rcases convCommand_cases s kH1 kH2 with ⟨ho, he⟩ | ⟨ho, he⟩ <;> rw [he]
    · exact ⟨rfl, .inl ⟨ho, rfl⟩⟩
    · exact ⟨rfl, .inr ⟨ho, rfl⟩⟩
  case clrstat => cases h; exact ⟨rfl, rfl⟩

/-- A launch: an illegal word completes with ERR = 7, a legal one runs its command. -/
theorem launch_cases {v : Word} {s t : State} (h : launch v s = .next t) :
    (∃ why, decode v = .error why ∧ t = (s.launched v).raise .illegalCommand 0) ∨
      ∃ i, decode v = .ok i ∧ exec i (s.launched v) = .next t := by
  unfold launch at h
  split at h
  · rename_i why hd
    exact .inl ⟨why, hd, by cases h; rfl⟩
  · rename_i i hd
    exact .inr ⟨i, hd, h⟩

/-- A launch changes the block only. -/
theorem launch_blk {v : Word} {s t : State} (h : launch v s = .next t) :
    t = { s with blk := t.blk } ∧
      ((∃ why, decode v = .error why ∧ t.blk = (s.blk.launched v).complete 7 0) ∨
        ∃ i, decode v = .ok i ∧ Block.commanded i (s.blk.launched v) t.blk) := by
  rcases launch_cases h with ⟨w, hw, rfl⟩ | ⟨i, hi, he⟩
  · exact ⟨rfl, .inl ⟨w, hw, rfl⟩⟩
  · obtain ⟨ha, hb⟩ := exec_cases he
    exact ⟨by rw [ha]; rfl, .inr ⟨i, hi, hb⟩⟩

/-- No command's launch writes CTRL or DATA, nor CMD once it is stored. -/
theorem Block.commanded_frame {i : Instr} {b b' : Block} (h : Block.commanded i b b') :
    b'.cmd = b.cmd ∧ b'.ctrl = b.ctrl ∧ b'.data = b.data := by
  cases i <;> simp only [Block.commanded] at h <;>
    first
    | (subst h; simp)
    | (rcases h with ⟨-, rfl⟩ | ⟨-, rfl⟩ <;> simp)

/-- A successful completion's delivery writes DATA and NBYTES only. -/
@[simp] theorem Block.deliver_eng (b : Block) : b.deliver.eng = b.eng := by unfold Block.deliver; split <;> rfl
@[simp] theorem Block.deliver_ctrl (b : Block) : b.deliver.ctrl = b.ctrl := by unfold Block.deliver; split <;> rfl
@[simp] theorem Block.deliver_cmd (b : Block) : b.deliver.cmd = b.cmd := by unfold Block.deliver; split <;> rfl
@[simp] theorem Block.deliver_raw (b : Block) : b.deliver.raw = b.raw := by unfold Block.deliver; split <;> rfl
@[simp] theorem Block.deliver_res64 (b : Block) : b.deliver.res64 = b.res64 := by unfold Block.deliver; split <;> rfl
@[simp] theorem Block.deliver_res32 (b : Block) : b.deliver.res32 = b.res32 := by unfold Block.deliver; split <;> rfl
@[simp] theorem Block.deliver_isOpen (b : Block) : b.deliver.status.isOpen = b.status.isOpen := by
  unfold Block.deliver; split <;> rfl
@[simp] theorem Block.deliver_crcOk (b : Block) : b.deliver.status.crcOk = b.status.crcOk := by
  unfold Block.deliver; split <;> rfl
@[simp] theorem Block.deliver_ovr (b : Block) : b.deliver.status.ovr = b.status.ovr := by
  unfold Block.deliver; split <;> rfl
@[simp] theorem Block.deliver_err (b : Block) : b.deliver.status.err = b.status.err := by
  unfold Block.deliver; split <;> rfl

/-- A launch answers a next state. -/
theorem launch_next (v : Word) (s : State) : ∃ t, launch v s = .next t := by
  unfold launch
  split
  · exact ⟨_, rfl⟩
  · exact exec_next _ _

/-- The registers a host write can change, and how. -/
theorem hostWrite_cases {r : Reg} {v : Word} {s t : State} (h : hostWrite r v s = .next t) :
    t = s ∨ (s.blk.status.busy = true ∧ t = { s with blk := s.blk.overrun }) ∨
      (s.blk.status.busy = false ∧
        ((s.blk.status.isOpen = false ∧ t = { s with blk := { s.blk with ctrl := Ctrl.ofWord v } }) ∨
          t = { s with blk := { s.blk with data := dataOfWord v } } ∨ (r = .cmd ∧ launch v s = .next t))) := by
  cases r
  case ctrl =>
    cases h
    cases hb : s.blk.status.busy <;> cases ho : s.blk.status.isOpen <;>
      simp [Block.writeCtrl, Block.overrun, hb, ho]
  case data =>
    cases h
    cases hb : s.blk.status.busy <;> simp [Block.writeData, Block.overrun, hb]
  case cmd =>
    simp only [hostWrite, writeCmd] at h
    split at h
    · cases h; exact .inr (.inl ⟨‹_›, rfl⟩)
    · rename_i hb
      exact .inr (.inr ⟨by simpa using hb, .inr (.inr ⟨rfl, h⟩)⟩)
  all_goals (cases h; exact .inl rfl)

/-- A host write answers a next state. -/
theorem hostWrite_next (r : Reg) (v : Word) (s : State) : ∃ t, hostWrite r v s = .next t := by
  cases r
  case cmd =>
    simp only [hostWrite, writeCmd]
    split
    · exact ⟨_, rfl⟩
    · exact launch_next v s
  all_goals exact ⟨_, rfl⟩

/-- A host write at an offset that answers is a host write of the register there. -/
theorem hostWriteAt_cases {off : Nat} {v : Word} {s t : State} (h : hostWriteAt off v s = .next t) :
    ∃ r, Reg.ofOffset off = some r ∧ hostWrite r v s = .next t := by
  unfold hostWriteAt at h
  split at h
  · rename_i r hr; exact ⟨r, hr, h⟩
  · cases h

/-- A host read at an offset that answers gives the register there to the host. -/
theorem hostReadAt_cases {off : Nat} {s t : State} (h : hostReadAt off s = .next t) :
    ∃ r, Reg.ofOffset off = some r ∧ t = s.withRead (s.blk.readReg r) := by
  unfold hostReadAt at h
  split at h
  · rename_i r hr; exact ⟨r, hr, by cases h; rfl⟩
  · cases h

/-- A host access that answers is a read or a write of the window. -/
theorem hostAccess_cases {a : Access} {s t : State} (h : hostAccess a s = .next t) :
    (∃ off, hostReadAt off s = .next t) ∨ ∃ off v, hostWriteAt off v s = .next t := by
  cases a <;> simp only [hostAccess] at h <;> split at h
  · exact .inl ⟨_, h⟩
  · cases h
  · exact .inr ⟨_, _, h⟩
  · cases h

/-- An engine step with no step enabled. -/
theorem engineStep_disabled {s : State} (h : s.engineEnabled = false) : engineStep s = s := by simp [engineStep, h]

/-- An engine step with one enabled. -/
theorem engineStep_enabled {s : State} (h : s.engineEnabled = true) : engineStep s = s.engineSymbol := by
  simp [engineStep, h]

/-- When the engine has a step. -/
theorem engineEnabled_iff (s : State) :
    s.engineEnabled = true ↔ s.blk.eng.phase = .run ∧ s.partner.holdsScl = false := by
  simp [State.engineEnabled]

/-- j steps and then k steps. -/
theorem engineRun_add (j k : Nat) (s : State) : engineRun (j + k) s = engineRun k (engineRun j s) := by
  induction j generalizing s with
  | zero => simp [engineRun]
  | succ j ih => rw [Nat.succ_add]; exact ih (engineStep s)

/-- What a symbol can do: it leaves the command running, with the registers as they were, or completes it. -/
theorem engineSymbol_cases (s : State) :
    (∃ e y, s.engineSymbol.blk = { s.blk with eng := e } ∧ e.phase = s.blk.eng.phase ∧
        s.engineSymbol.bus = ⟨true, s.bus.trace ++ [.sym y]⟩ ∧ y ≠ .stop ∧ (∀ b, y ≠ .tx b .arb) ∧ y ≠ .rxArb) ∨
      (∃ y, s.engineSymbol.blk = s.blk.complete 3 3 ∧ s.cfg.arbPossible = true ∧
        s.engineSymbol.bus = ⟨false, s.bus.trace ++ [.sym y]⟩ ∧ ((∃ b, y = .tx b .arb) ∨ y = .rxArb)) ∨
      (s.blk.eng.step = .stop ∧ s.engineSymbol.bus = ⟨false, s.bus.trace ++ [.sym .stop]⟩ ∧
        ((s.blk.eng.why = .addrNack ∧ s.engineSymbol.blk = s.blk.complete 3 1) ∨
          (s.blk.eng.why = .dataNack ∧ s.engineSymbol.blk = s.blk.complete 3 2) ∨
          (s.blk.eng.why ≠ .addrNack ∧ s.blk.eng.why ≠ .dataNack ∧
            s.engineSymbol.blk = s.blk.deliver.complete 0 0))) := by
  unfold State.engineSymbol
  split
  · left
    refine ⟨_, _, rfl, rfl, rfl, ?_⟩
    split <;> simp
  · unfold State.engineAddr
    split
    · rename_i h
      right; left
      refine ⟨_, by simp [State.loseArbitration, ErrKind.code], ?_, by simp [State.loseArbitration]; rfl, by simp⟩
      unfold State.txResult at h
      split at h
      · simp_all
      · split at h <;> cases h
    · left
      refine ⟨_, _, by simp [State.setEng]; rfl, ?_, by simp; rfl, by simp⟩
      unfold Eng.dataPhase; split <;> (try split) <;> rfl
    · left
      refine ⟨_, _, by simp [State.setEng]; rfl, ?_, by simp; rfl, by simp⟩
      unfold Eng.addressNacked; split <;> rfl
  · unfold State.engineWdata
    split
    · rename_i h
      right; left
      refine ⟨_, by simp [State.loseArbitration, ErrKind.code], ?_, by simp [State.loseArbitration]; rfl, by simp⟩
      unfold State.txResult at h
      split at h
      · simp_all
      · split at h <;> cases h
    · left
      refine ⟨_, _, by simp [State.setEng]; rfl, ?_, by simp; rfl, by simp⟩
      unfold Eng.segmentDone; split <;> rfl
    · left
      refine ⟨_, _, by simp [State.setEng]; rfl, ?_, by simp; rfl, by simp⟩
      rfl
  · unfold State.engineRdata
    split
    · rename_i h
      right; left
      refine ⟨_, by simp [State.loseArbitration, ErrKind.code], ?_, by simp [State.loseArbitration]; rfl, by simp⟩
      unfold State.rxResult at h
      split at h
      · simp_all
      · cases h
    · left
      refine ⟨_, _, by simp [State.setEng]; rfl, ?_, by simp; rfl, by simp⟩
      unfold Eng.byteDone; split <;> simp
  · rename_i hs
    right; right
    unfold State.engineStop
    refine ⟨hs, ?_⟩
    cases hw : s.blk.eng.why <;> simp [ErrKind.code]

/-- A symbol touches nothing but the block, the bus and the partner's answers. -/
theorem engineSymbol_frame (s : State) :
    s.engineSymbol.cfg = s.cfg ∧ s.engineSymbol.host = s.host ∧ s.engineSymbol.turns = s.turns ∧
      s.engineSymbol.partner.holdsScl = s.partner.holdsScl := by
  unfold State.engineSymbol State.engineStart State.engineAddr State.engineWdata State.engineRdata State.engineStop
    State.loseArbitration
  split <;> (try split) <;> simp

/-- A host variable's list after a write: its keys are the old ones and the one written. -/
theorem mem_setVar {vars : List (Nat × BitVec 64)} {x : Nat} {v : BitVec 64} {p : Nat × BitVec 64}
    (h : p ∈ setVar vars x v) : p = (x, v) ∨ p ∈ vars := by
  induction vars with
  | nil => unfold setVar at h; split at h <;> simp_all
  | cons q rest ih =>
    obtain ⟨k, w⟩ := q
    unfold setVar at h
    split at h
    · split at h <;> simp_all
    · split at h
      · split at h
        · exact .inr (List.mem_cons_of_mem _ h)
        · rcases List.mem_cons.mp h with rfl | h
          · exact .inl rfl
          · exact .inr (List.mem_cons_of_mem _ h)
      · rcases List.mem_cons.mp h with rfl | h
        · simp
        · rcases ih h with rfl | h <;> simp_all

end Sys2Proof.Machine
end

