-- ==== Sys2Proof/Laws/PerInstr.lean ====
section
/-! SUPPORT. The encoder's fixed fields, one lemma a command: OP is the command's opcode and the reserved fields are 0
(R70, R73, R80). -/

namespace Sys2Proof.Laws.FixedFields

/-- The fixed fields of a command's word. -/
def Statement (i : Instr) : Prop :=
  opField (encode i) = opcode i ∧ rsv1Field (encode i) = 0 ∧ rsv2Field (encode i) = 0

theorem nop : Statement .nop := by unfold Statement; decide
theorem busOpen : Statement .busOpen := by unfold Statement; decide
theorem busClose : Statement .busClose := by unfold Statement; decide
theorem crcChk : Statement .crcChk := by unfold Statement; decide
theorem convT : Statement .convT := by unfold Statement; decide
theorem convRH : Statement .convRH := by unfold Statement; decide
theorem clrstat : Statement .clrstat := by unfold Statement; decide

theorem xferW (wb : Byte) : Statement (.xferW wb) := by
  refine ⟨?_, ?_, ?_⟩ <;> ext k hk <;>
    simp only [opField, rsv1Field, rsv2Field, encode, opcode, BitVec.getElem_extractLsb', BitVec.getLsbD_or,
      BitVec.getLsbD_shiftLeft, BitVec.getLsbD_setWidth] <;>
    interval_cases k <;> simp

theorem xferR (n : BitVec 2) : Statement (.xferR n) := by
  refine ⟨?_, ?_, ?_⟩ <;> ext k hk <;>
    simp only [opField, rsv1Field, rsv2Field, encode, opcode, BitVec.getElem_extractLsb', BitVec.getLsbD_or,
      BitVec.getLsbD_shiftLeft, BitVec.getLsbD_setWidth] <;>
    interval_cases k <;> simp

theorem xferWR (wb : Byte) (n : BitVec 2) : Statement (.xferWR wb n) := by
  refine ⟨?_, ?_, ?_⟩ <;> ext k hk <;>
    simp only [opField, rsv1Field, rsv2Field, encode, opcode, BitVec.getElem_extractLsb', BitVec.getLsbD_or,
      BitVec.getLsbD_shiftLeft, BitVec.getLsbD_setWidth] <;>
    interval_cases k <;> simp

end Sys2Proof.Laws.FixedFields
end

