-- ==== Sys2Proof/Laws/Sensor.lean ====
section
/-! SUPPORT. What the bus history tells of the sensor, event by event, and the premises about SCL. -/

namespace Sys2Proof.Machine

@[simp] theorem heard_nil (c : SensorCommands) : heard c [] = Heard.unheard := rfl

/-- A history one event longer. -/
@[simp] theorem heard_append_one (c : SensorCommands) (tr : List BusEvent) (e : BusEvent) :
    heard c (tr ++ [e]) = (heard c tr).next c e := by
  simp [heard]

@[simp] theorem Heard.begin_asked (h : Heard) : h.begin.asked = h.asked.keep := rfl
@[simp] theorem Heard.begin_trigger (h : Heard) : h.begin.trigger = h.trigger := rfl
@[simp] theorem Heard.begin_settled (h : Heard) : h.begin.settled = h.settled := rfl
@[simp] theorem Heard.cutOff_asked (h : Heard) : h.cutOff.asked = .nothing := rfl
@[simp] theorem Heard.cutOff_trigger (h : Heard) : h.cutOff.trigger = h.trigger := rfl
@[simp] theorem Heard.cutOff_settled (h : Heard) : h.cutOff.settled = false := rfl
@[simp] theorem Heard.cutOff_known (h : Heard) : h.cutOff.known = false := by simp [Heard.known, Heard.cutOff]
@[simp] theorem Heard.cutOff_cut (h : Heard) : h.cutOff.cut = true := rfl
@[simp] theorem Heard.takeReset_settled (h : Heard) : h.takeReset.settled = false := rfl
@[simp] theorem Heard.stop_asked (h : Heard) : h.stop.asked = h.asked := rfl
@[simp] theorem Heard.stop_trigger (h : Heard) : h.stop.trigger = h.trigger := rfl
@[simp] theorem Heard.readBack_trigger (h : Heard) (b : Byte) : (h.readBack b).trigger = h.trigger := by
  unfold Heard.readBack; split <;> rfl
@[simp] theorem Heard.receive_trigger (h : Heard) (b : Byte) : (h.receive b).trigger = h.trigger := by
  cases ha : h.asked <;> simp only [Heard.receive, ha] <;> split <;> simp
@[simp] theorem Heard.receive_sent (h : Heard) (b : Byte) : (h.receive b).sent = h.sent + 1 := rfl

/-- Another value than 0x02 read back leaves the sensor's state unknown (R183, R202). -/
theorem Heard.readBack_unknown {h : Heard} {b : Byte} (hb : b ≠ 0x02) :
    (h.readBack b).known = false ∧ (h.readBack b).settled = false := by
  unfold Heard.readBack
  rw [if_neg hb]
  simp [Heard.known, Heard.settled]

@[simp] theorem Heard.takeInWindow_asked (c : SensorCommands) (h : Heard) (b : Byte) :
    (h.takeInWindow c b).asked = .nothing := by
  unfold Heard.takeInWindow; split <;> rfl

/-- Nothing the sensor takes inside its reset window makes its state known (R202). -/
theorem Heard.takeInWindow_known {c : SensorCommands} {h : Heard} {b : Byte} (hk : h.known = false) :
    (h.takeInWindow c b).known = false ∧ (h.takeInWindow c b).cut = h.cut ∧
      (h.takeInWindow c b).initDone = h.initDone := by
  unfold Heard.takeInWindow
  split <;> simp_all [Heard.known]

/-- No premise binds a sensor of which nothing was heard (D49), but the register's after a soft reset. -/
theorem unheard_draws : Heard.unheard.settled = false ∧ Heard.unheard.known = false := ⟨rfl, rfl⟩

/-- A state whose bus is released in the middle of a transaction: the sensor's answers are draws (D48). -/
theorem heard_cut {c : SensorCommands} {s : State} (hr : (heard c s.bus.trace).running = true)
    (hh : s.bus.held = false) :
    (s.heard c).settled = false ∧ (s.heard c).known = false ∧ (s.heard c).cut = true := by
  simp [State.heard, hr, hh]

/-- A received byte asks for no result. -/
theorem Heard.receive_asked (h : Heard) (b : Byte) :
    (h.receive b).asked = h.asked ∨ (h.receive b).asked = .confirmed ∨ (h.receive b).asked = .nothing := by
  cases ha : h.asked <;> simp only [Heard.receive, ha, Heard.readBack] <;>
    (try split_ifs) <;> simp_all

/-- A result is asked for only once a trigger was taken. -/
theorem Heard.next_asked {c : SensorCommands} {h : Heard}
    (hi : h.asked = .result ∨ h.asked = .sending → h.trigger.isSome = true) (e : BusEvent) :
    (h.next c e).asked = .result ∨ (h.next c e).asked = .sending → (h.next c e).trigger.isSome = true := by
  have hk : h.asked.keep = .result ∨ h.asked.keep = .sending → h.trigger.isSome = true := by
    intro hr
    refine hi ?_
    cases ha : h.asked <;> simp_all [Asked.keep]
  have haddr : ∀ b r, (h.takeAddress b r).asked = .result ∨ (h.takeAddress b r).asked = .sending →
      (h.takeAddress b r).trigger.isSome = true := by
    intro b r hr
    refine hi ?_
    simp only [Heard.takeAddress] at hr
    split at hr
    · rename_i hc
      simp_all
    · exact hr
  have hbyte : ∀ b, (h.takeByte c b).asked = .result ∨ (h.takeByte c b).asked = .sending →
      (h.takeByte c b).trigger.isSome = true := by
    intro b hr
    unfold Heard.takeByte at hr ⊢
    split_ifs at hr ⊢ <;> simp_all [Heard.takeReset, Heard.takeTrigger]
  cases e with
  | quiet ms => exact hi
  | sym y =>
    cases y with
    | start =>
      simp only [Heard.next]
      split
      · simp [Asked.keep]
      · exact hk
    | repStart => exact hi
    | stop => exact hi
    | rx b m =>
      intro hr
      rcases Heard.receive_asked h b with ha | ha | ha <;> simp only [Heard.next] at hr <;> rw [ha] at hr
      · exact (Heard.receive_trigger h b).symm ▸ hi hr
      · simp at hr
      · simp at hr
    | rxArb => simp [Heard.next, Heard.loseBus]
    | tx b r =>
      cases r with
      | arb => simp [Heard.next, Heard.loseBus]
      | ack =>
        simp only [Heard.next]
        split
        · exact haddr _ _
        · split
          · exact hbyte _
          · exact hi
      | nack =>
        simp only [Heard.next]
        split
        · exact haddr _ _
        · exact hi

/-- A pending result has a trigger, in every history. -/
theorem heard_asked (c : SensorCommands) (tr : List BusEvent) :
    (heard c tr).asked = .result ∨ (heard c tr).asked = .sending → (heard c tr).trigger.isSome = true := by
  induction tr using List.reverseRecOn with
  | nil => simp [Heard.unheard]
  | append_singleton tr e ih => rw [heard_append_one]; exact Heard.next_asked ih e

/-- Where a trigger was taken the reset window is over (R202). -/
theorem Heard.window_over_of_trigger {h : Heard} (ht : h.trigger.isSome = true) : h.inResetWindow = false := by
  unfold Heard.inResetWindow
  cases hq : h.trigger <;> simp_all

/-- A partner that never stretches releases SCL. -/
theorem neverStretches_releasesScl {s : State} (h : NeverStretches s) : ReleasesScl s := by
  obtain ⟨hf, hn⟩ := h
  have key : ∀ (turns : List Turn), Turn.partner .holdScl ∉ turns → sclAfter false turns = false := by
    intro turns
    induction turns with
    | nil => intro _; rfl
    | cons t rest ih =>
      intro hn
      have hr := ih fun hm => hn (List.mem_cons_of_mem _ hm)
      cases t with
      | partner p => cases p <;> first | exact hr | exact absurd (List.mem_cons_self ..) hn
      | host | access a | engine | reset => exact hr
  unfold ReleasesScl
  rw [hf]
  exact key _ hn

/-- What remains to be held of SCL after a turn is taken is what remained before it. -/
theorem sclAfter_cons (holds : Bool) (t : Turn) (rest : List Turn) :
    sclAfter holds (t :: rest) =
      sclAfter (match t with | .partner .holdScl => true | .partner .releaseScl => false | _ => holds) rest := by
  cases t with
  | partner p => cases p <;> rfl
  | host | access a | engine | reset => rfl

end Sys2Proof.Machine
end

