-- ==== Sys2Proof/Laws/Step.lean ====
section
/-! SUPPORT. What a step can do, said once: a reset, a move of the partner, an engine step, a move of the host that leaves
the block alone, or a host write. -/

namespace Sys2Proof.Machine

/-- A move of the host that leaves the block and the partner alone. -/
structure HostOwn (s t : State) : Prop where
  cfg : t.cfg = s.cfg
  blk : t.blk = s.blk
  held : t.bus.held = s.bus.held
  trace : t.bus.trace = s.bus.trace ∨ ∃ ms, t.bus.trace = s.bus.trace ++ [.quiet ms]
  partner : t.partner = s.partner
  turns : t.turns = s.turns
  vars : t.host.vars = s.host.vars ∨ ∃ x v, t.host.vars = setVar s.host.vars x v

/-- A host with no line does nothing. -/
theorem HostOwn.refl (s : State) : HostOwn s s := ⟨rfl, rfl, rfl, .inl rfl, rfl, rfl, .inl rfl⟩

/-- A jump that finds its label moves the program counter only. -/
theorem jumpTo_cases {l : Nat} {s t : State} (h : jumpTo l s = .next t) : ∃ i, t = s.setHostPc i := by
  unfold jumpTo at h
  split at h
  · exact ⟨_, by cases h; rfl⟩
  · cases h

/-- What one line of a host program can do. -/
theorem runLine_cases {l : HostLine} {s t : State} (h : runLine l s = .next t) :
    HostOwn s t ∨ ∃ off r v, l = .write off v ∧ Reg.ofOffset off = some r ∧ hostWrite r v s = .next t := by
  cases l with
  | label k => cases h; exact .inl (.refl s)
  | write off v =>
    obtain ⟨r, ho, hr⟩ := hostWriteAt_cases h
    exact .inr ⟨off, r, v, rfl, ho, hr⟩
  | read off x =>
    simp only [runLine] at h
    split at h
    · cases h
      exact .inl ⟨rfl, rfl, rfl, .inl rfl, rfl, rfl, .inr ⟨_, _, rfl⟩⟩
    · cases h
  | sleep ms =>
    cases h
    exact .inl ⟨rfl, rfl, rfl, .inr ⟨ms, rfl⟩, rfl, rfl, .inl rfl⟩
  | ifGoto c k =>
    simp only [runLine] at h
    split at h
    · obtain ⟨i, rfl⟩ := jumpTo_cases h
      exact .inl ⟨rfl, rfl, rfl, .inl rfl, rfl, rfl, .inl rfl⟩
    · cases h; exact .inl (.refl s)
  | goto k =>
    obtain ⟨i, rfl⟩ := jumpTo_cases h
    exact .inl ⟨rfl, rfl, rfl, .inl rfl, rfl, rfl, .inl rfl⟩
  | pair x hi lo =>
    cases h
    exact .inl ⟨rfl, rfl, rfl, .inl rfl, rfl, rfl, .inr ⟨_, _, rfl⟩⟩
  | ret e =>
    cases h
    exact .inl ⟨rfl, rfl, rfl, .inl rfl, rfl, rfl, .inl rfl⟩

/-- What a host step can do. -/
theorem hostStep_cases {s t : State} (h : hostStep s = .next t) :
    HostOwn s t ∨ ∃ off r v, s.host.program[s.host.pc]? = some (.write off v) ∧ Reg.ofOffset off = some r ∧
      hostWrite r v (s.setHostPc (s.host.pc + 1)) = .next t := by
  unfold hostStep at h
  split at h
  · rename_i l hl
    rcases runLine_cases h with ho | ⟨off, r, v, rfl, hr, hw⟩
    · exact .inl ⟨ho.cfg, ho.blk, ho.held, ho.trace, ho.partner, ho.turns, ho.vars⟩
    · exact .inr ⟨off, r, v, hl, hr, hw⟩
  · cases h; exact .inl (.refl s)

/-- What a host access can do. -/
theorem hostAccess_moves {a : Access} {s t : State} (h : hostAccess a s = .next t) :
    HostOwn s t ∨ ∃ off r v, a = .write (s.cfg.base + off) 4 v ∧ Reg.ofOffset off = some r ∧
      hostWrite r v s = .next t := by
  cases a with
  | read addr width =>
    simp only [hostAccess] at h
    split at h
    · obtain ⟨r, -, rfl⟩ := hostReadAt_cases h
      exact .inl ⟨rfl, rfl, rfl, .inl rfl, rfl, rfl, .inl rfl⟩
    · cases h
  | write addr width v =>
    simp only [hostAccess] at h
    split at h
    · rename_i off hl
      obtain ⟨hw, ha⟩ := locate_ok hl
      obtain ⟨r, ho, hr⟩ := hostWriteAt_cases h
      exact .inr ⟨off, r, v, by rw [hw, ha], ho, hr⟩
    · cases h

/-- The state with the next turn taken off. -/
def State.turnTaken (s : State) : State := { s with turns := s.turns.tail }

@[simp] theorem State.turnTaken_cfg (s : State) : s.turnTaken.cfg = s.cfg := rfl
@[simp] theorem State.turnTaken_blk (s : State) : s.turnTaken.blk = s.blk := rfl
@[simp] theorem State.turnTaken_bus (s : State) : s.turnTaken.bus = s.bus := rfl
@[simp] theorem State.turnTaken_partner (s : State) : s.turnTaken.partner = s.partner := rfl
@[simp] theorem State.turnTaken_host (s : State) : s.turnTaken.host = s.host := rfl

/-- What one step can do, whoever moves. -/
theorem step_cases {s t : State} (h : step s = .next t) :
    (∃ rest, s.turns = .reset :: rest ∧ t = s.turnTaken.blockReset) ∨ (∃ p, t = partnerStep p s.turnTaken) ∨
      t = engineStep s.turnTaken ∨ HostOwn s.turnTaken t ∨
      ∃ off r v pc, s.nextWrites off v ∧ Reg.ofOffset off = some r ∧
        hostWrite r v (s.turnTaken.setHostPc pc) = .next t := by
  unfold step takeTurn at h
  split at h
  · rename_i turn rest hs
    have hst : ({ s with turns := rest } : State) = s.turnTaken := by simp [State.turnTaken, hs]
    rw [hst] at h
    cases turn with
    | host =>
      rcases hostStep_cases h with ho | ⟨off, r, v, hl, hr, hw⟩
      · exact .inr (.inr (.inr (.inl ho)))
      · exact .inr (.inr (.inr (.inr ⟨off, r, v, _, .inr ⟨.inl ⟨rest, hs⟩, hl⟩, hr, hw⟩)))
    | access a =>
      rcases hostAccess_moves h with ho | ⟨off, r, v, ha, hr, hw⟩
      · exact .inr (.inr (.inr (.inl ho)))
      · exact .inr (.inr (.inr (.inr ⟨off, r, v, s.host.pc, .inl ⟨rest, by rw [hs, ha]; rfl⟩, hr, hw⟩)))
    | engine => cases h; exact .inr (.inr (.inl rfl))
    | partner p => cases h; exact .inr (.inl ⟨p, rfl⟩)
    | reset => cases h; exact .inl ⟨rest, hs, rfl⟩
  · rename_i hs
    have hst : s.turnTaken = s := by cases s; simp_all [State.turnTaken]
    rw [← hst] at h
    unfold idleTurn at h
    split at h
    · cases h; exact .inr (.inr (.inl rfl))
    · rename_i he
      rw [hst] at he
      rcases hostStep_cases h with ho | ⟨off, r, v, hl, hr, hw⟩
      · exact .inr (.inr (.inr (.inl ho)))
      · exact .inr (.inr (.inr (.inr ⟨off, r, v, _, .inr ⟨.inr ⟨hs, by simpa using he⟩, hl⟩, hr, hw⟩)))

/-- What a step can do to the block: a reset, an engine step, a write that is no launch, or a launch. -/
theorem step_blk_cases {s t : State} (h : step s = .next t) :
    (∃ rest, s.turns = .reset :: rest ∧ t.blk = Block.reset) ∨ t.blk = (engineStep s.turnTaken).blk ∨ t.blk = s.blk ∨
      (s.blk.status.busy = true ∧ t.blk = s.blk.overrun) ∨
      (s.blk.status.busy = false ∧ s.blk.status.isOpen = false ∧ ∃ v, t.blk = { s.blk with ctrl := Ctrl.ofWord v }) ∨
      (s.blk.status.busy = false ∧ ∃ v, t.blk = { s.blk with data := dataOfWord v }) ∨
      ∃ v s₀, s.launches v ∧ s₀.blk = s.blk ∧ launch v s₀ = .next t := by
  rcases step_cases h with ⟨rest, hs, rfl⟩ | ⟨p, rfl⟩ | rfl | ho | ⟨off, r, v, pc, hn, hr, hw⟩
  · exact .inl ⟨rest, hs, rfl⟩
  · right; right; left
    cases p <;> rfl
  · exact .inr (.inl rfl)
  · exact .inr (.inr (.inl ho.blk))
  · rcases hostWrite_cases hw with rfl | ⟨hb, rfl⟩ | ⟨hb, ⟨ho, rfl⟩ | rfl | ⟨rfl, hl⟩⟩
    · exact .inr (.inr (.inl rfl))
    · exact .inr (.inr (.inr (.inl ⟨hb, rfl⟩)))
    · exact .inr (.inr (.inr (.inr (.inl ⟨hb, ho, v, rfl⟩))))
    · exact .inr (.inr (.inr (.inr (.inr (.inl ⟨hb, v, rfl⟩)))))
    · have ho : off = 0x08 := ((Reg.ofOffset_inv hr).2.2.2.1).1 rfl
      exact .inr (.inr (.inr (.inr (.inr (.inr ⟨v, s.turnTaken.setHostPc pc, ⟨hb, ho ▸ hn⟩, rfl, hl⟩)))))

end Sys2Proof.Machine
end

