-- ==== Sys2Proof/Laws/Vars.lean ====
section
/-! SUPPORT. The host's variables (R82): a variable reads as it was last written, and the list keeps its one form. -/

namespace Sys2Proof.Machine

/-- The tail of a canonical list is canonical. -/
theorem varsCanonical_tail {q : Nat × BitVec 64} {rest : List (Nat × BitVec 64)} (h : varsCanonical (q :: rest)) :
    varsCanonical rest :=
  ⟨(List.pairwise_cons.mp h.1).2, fun p hp => h.2 p (List.mem_cons_of_mem _ hp)⟩

/-- A list is canonical with an entry before it whose number is lower and whose value is not 0. -/
theorem varsCanonical_cons {x : Nat} {w : BitVec 64} {rest : List (Nat × BitVec 64)} (h : varsCanonical rest)
    (hw : w ≠ 0) (hlt : ∀ p ∈ rest, x < p.1) : varsCanonical ((x, w) :: rest) :=
  ⟨List.pairwise_cons.mpr ⟨hlt, h.1⟩, fun p hp => by
    rcases List.mem_cons.mp hp with rfl | hp
    · exact hw
    · exact h.2 p hp⟩

/-- A write of a host variable keeps the canonical form. -/
theorem setVar_canonical {vars : List (Nat × BitVec 64)} (h : varsCanonical vars) (x : Nat) (w : BitVec 64) :
    varsCanonical (setVar vars x w) := by
  induction vars with
  | nil =>
    unfold setVar
    split
    · exact h
    · rename_i hw
      exact varsCanonical_cons h hw (by simp)
  | cons q rest ih =>
    obtain ⟨k, v⟩ := q
    have ht := varsCanonical_tail h
    have hk : ∀ p ∈ rest, k < p.1 := fun p hp => (List.pairwise_cons.mp h.1).1 p hp
    unfold setVar
    split
    · rename_i hx
      split
      · exact h
      · rename_i hw
        refine varsCanonical_cons h hw fun p hp => ?_
        rcases List.mem_cons.mp hp with rfl | hp
        · exact hx
        · exact hx.trans (hk p hp)
    · rename_i hx
      split
      · rename_i he
        subst he
        split
        · exact ht
        · rename_i hw
          exact varsCanonical_cons ht hw hk
      · rename_i he
        refine varsCanonical_cons (ih ht) (h.2 (k, v) (List.mem_cons_self ..)) fun p hp => ?_
        rcases mem_setVar hp with rfl | hp
        · exact (show k < x by omega)
        · exact hk p hp

/-- A variable below every entry of the list reads 0. -/
theorem getVar_below {vars : List (Nat × BitVec 64)} {x : Nat} (h : ∀ p ∈ vars, x < p.1) : getVar vars x = 0 := by
  induction vars with
  | nil => rfl
  | cons q rest ih =>
    obtain ⟨k, v⟩ := q
    have hk : x < k := h (k, v) (List.mem_cons_self ..)
    rw [getVar, if_neg (by omega)]
    exact ih fun p hp => h p (List.mem_cons_of_mem _ hp)

/-- A host variable reads as it was last written, and the others as before. -/
theorem getVar_setVar {vars : List (Nat × BitVec 64)} (h : varsCanonical vars) (x y : Nat) (w : BitVec 64) :
    getVar (setVar vars x w) y = if y = x then w else getVar vars y := by
  induction vars with
  | nil =>
    unfold setVar
    split
    · rename_i hw
      rw [hw]
      split <;> rfl
    · rw [getVar, getVar]
      split <;> split <;> first | rfl | omega
  | cons q rest ih =>
    obtain ⟨k, v⟩ := q
    have ht := varsCanonical_tail h
    have hk : ∀ p ∈ rest, k < p.1 := fun p hp => (List.pairwise_cons.mp h.1).1 p hp
    unfold setVar
    split
    · rename_i hx
      split
      · rename_i hw
        split
        · rename_i hy
          rw [hy, hw]
          refine getVar_below fun p hp => ?_
          rcases List.mem_cons.mp hp with rfl | hp
          · exact hx
          · exact hx.trans (hk p hp)
        · rfl
      · rw [getVar]
        split <;> split <;> first | rfl | omega
    · rename_i hx
      split
      · rename_i he
        subst he
        split
        · rename_i hw
          split
          · rename_i hy
            rw [hy, hw]
            exact getVar_below hk
          · rename_i hy
            rw [getVar, if_neg (Ne.symm hy)]
        · rw [getVar, getVar]
          split <;> split <;> first | rfl | omega
      · rename_i he
        rw [getVar, getVar, ih ht]
        split <;> split <;> first | rfl | omega

end Sys2Proof.Machine
end

