-- ==== Sys2Proof/Tests/Slice0.lean ====
section
/-! SUPPORT. Tests on fixed values, each from the spec's own tables and vectors (95_test_vectors.md, R81, R147, R151,
R159), and for every statement with hypotheses a named witness that meets them together. -/

namespace Sys2Proof.Tests

open Sys2Proof.Machine

/-! ### Small states -/

/-- The next state of an outcome; the reset state where it is none. -/
def next (o : Host.Outcome State Fault Refusal) : State :=
  match o with
  | .next t => t
  | _ => State.reset

/-- An outcome that is a next state. -/
def isNext (o : Host.Outcome State Fault Refusal) : Bool :=
  match o with
  | .next _ => true
  | _ => false

theorem next_of_isNext {o : Host.Outcome State Fault Refusal} (h : isNext o = true) : o = .next (next o) := by
  unfold isNext at h
  split at h
  · rfl
  · cases h

/-- The bus open, nothing else changed since reset: STATUS = 0x00000002. -/
def opened : State := next (exec .busOpen State.reset)

/-- Reset with a STATUS and a DATA of one's own. -/
def withStatus (st : Status) (d : BitVec 24) : State :=
  { State.reset with blk := { Block.reset with status := st, data := d } }

/-- STATUS = 0x00000506 and 0x00000016 of V-CTL-02 and V-CTL-03, 0x0003000E of V-CTL-04. -/
def status506 : Status := { Status.reset with err := 5, isDone := true, isOpen := true }
def status016 : Status := { Status.reset with ovr := true, isDone := true, isOpen := true }
def status3000E : Status := { Status.reset with nbytes := 3, crcOk := true, isDone := true, isOpen := true }

/-- The state after the host's write of a command word. -/
def wrote (v : Word) (s : State) : State := next (hostWriteAt 0x08 v s)

/-- A state with the partner's next answers and CTRL set. -/
def answering (as : List Answer) (retry : BitVec 4) (addr : BitVec 7) (s : State) : State :=
  { s with
    partner := ⟨false, as, 0⟩
    blk := { s.blk with ctrl := ⟨retry, addr⟩ } }

/-- XFER.WR 0xF3, 3 launched on an open bus with these answers to come. -/
def trigger (as : List Answer) (retry : BitVec 4) (addr : BitVec 7) : State :=
  wrote 0x0003F304 (answering as retry addr opened)

/-- The answers of V-I2C-06: everything ACKed, then the payload 0x683A7C. -/
def answers06 : List Answer :=
  [ackAnswer, ackAnswer, ackAnswer, byteAnswer 0x68, byteAnswer 0x3A, byteAnswer 0x7C]

/-! ### Encoding: each word written out from the fields of R70: RSV2 RLEN WBYTE RSV1 OP -/

theorem test_decode_nop : decode 0b00000000000000_00_00000000_0000_0000#32 = .ok .nop := by decide
theorem test_decode_open : decode 0b00000000000000_00_00000000_0000_0001#32 = .ok .busOpen := by decide
theorem test_decode_close : decode 0b00000000000000_00_00000000_0000_0010#32 = .ok .busClose := by decide
theorem test_decode_xferW : decode 0b00000000000000_00_11111110_0000_0011#32 = .ok (.xferW 0xFE) := by decide
theorem test_decode_xferWR : decode 0b00000000000000_11_11110011_0000_0100#32 = .ok (.xferWR 0xF3 3) := by decide
theorem test_decode_xferR : decode 0b00000000000000_10_00000000_0000_0101#32 = .ok (.xferR 2) := by decide
theorem test_decode_crcChk : decode 0b00000000000000_00_00000000_0000_0110#32 = .ok .crcChk := by decide
theorem test_decode_convT : decode 0b00000000000000_00_00000000_0000_0111#32 = .ok .convT := by decide
theorem test_decode_convRH : decode 0b00000000000000_00_00000000_0000_1000#32 = .ok .convRH := by decide
theorem test_decode_clrstat : decode 0b00000000000000_00_00000000_0000_1001#32 = .ok .clrstat := by decide

/-- V-ENC-07, -08, -12 to -21: illegal words, each by its reason. -/
theorem test_decode_illegal :
    decode 0x0001FE03 = .error .unusedField ∧ decode 0x0000E704 = .error .zeroLength ∧
    decode 0x00000005 = .error .zeroLength ∧ decode 0x00030105 = .error .unusedField ∧
    decode 0x00000102 = .error .unusedField ∧ decode 0x00010006 = .error .unusedField ∧
    decode 0x00000010 = .error .reservedBit ∧ decode 0x00040004 = .error .reservedBit ∧
    decode 0x80000000 = .error .reservedBit ∧ decode 0x0000000A = .error .reservedOp ∧
    decode 0x0000000F = .error .reservedOp ∧ decode 0xFFFFFFFF = .error .reservedBit := by decide

/-- The words of R81. -/
theorem test_encode :
    encode (.xferW 0xFE) = 0x0000FE03 ∧ encode (.xferWR 0xE7 1) = 0x0001E704 ∧ encode (.xferWR 0xF5 3) = 0x0003F504 ∧
    encode (.xferR 3) = 0x00030005 ∧ encode .clrstat = 0x00000009 := by decide

/-- Table rows by number; the bare match words of XFER.WR and XFER.R have RLEN 0 and are illegal (R74). -/
theorem test_decodeTableWord :
    decodeTableWord 32 0x9 = some .clrstat ∧ decodeTableWord 32 0x10004 = some (.xferWR 0 1) ∧
    decodeTableWord 32 0x4 = none ∧ decodeTableWord 32 0x5 = none ∧ decodeTableWord 16 0x9 = none := by decide

/-! ### Well-formedness refuses ill-formed terms -/

theorem test_wf_xferWR_zero : Instr.wf (.xferWR 0xF3 0) = false := by decide
theorem test_wf_xferR_zero : Instr.wf (.xferR 0) = false := by decide
theorem test_wf_accepts : Instr.wf (.xferR 1) = true ∧ Instr.wf (.xferWR 0 3) = true ∧ Instr.wf (.xferW 0) = true := by
  decide
/-- A register offset off the word boundary, and one outside the window. -/
theorem test_wf_offset : programWf [.write 0x02 0] = false ∧ programWf [.read 0x100 0] = false ∧
    programWf [.read 0x101 0] = false ∧ programWf [.write 0x100 0] = false ∧ programWf [.write 0xFC 0] = true := by decide
/-- A field with its bounds the wrong way round, and one above bit 63. -/
theorem test_wf_field : programWf [.label 0, .ifGoto ⟨⟨0, 3, 4⟩, true, .num 0⟩ 0] = false ∧
    programWf [.label 0, .ifGoto ⟨⟨0, 64, 4⟩, true, .num 0⟩ 0] = false ∧
    programWf [.label 0, .ifGoto ⟨⟨0, 63, 0⟩, true, .field ⟨1, 8, 9⟩⟩ 0] = false ∧
    programWf [.label 0, .ifGoto ⟨⟨0, 63, 0⟩, true, .num 0⟩ 0] = true := by decide
/-- A jump to a label no line carries, and a label twice. -/
theorem test_wf_labels : programWf [.goto 1, .label 0] = false ∧ programWf [.ifGoto ⟨⟨0, 0, 0⟩, true, .num 0⟩ 1] = false ∧
    programWf [.label 0, .label 0] = false := by decide
/-- The host sequences of R180 to R188 are well formed. -/
theorem test_wf_sequences :
    programWf (openProgram 0x40) = true ∧ programWf closeProgram = true ∧ programWf (initProgram sensorDefaults) = true ∧
    programWf (readTemperature sensorDefaults) = true ∧ programWf (readHumidity sensorDefaults) = true := by decide

/-! ### The commands, one step each -/

theorem test_nop_reset : (wrote 0x0 State.reset).blk.status.word = 0x00000004 := by decide -- V-CTL-01
theorem test_nop_clears_err : (wrote 0x0 (withStatus status506 0)).blk.status.word = 0x00000006 := by decide -- V-CTL-02
theorem test_clrstat_ovr : (wrote 0x9 (withStatus status016 0)).blk.status.word = 0x00000006 := by decide -- V-CTL-03
theorem test_clrstat_crcOk : (wrote 0x9 (withStatus status3000E 0)).blk.status.word = 0x00000006 := by decide -- V-CTL-04
theorem test_open_reset : (wrote 0x1 State.reset).blk.status.word = 0x00000006 := by decide -- V-BUS-01
theorem test_open_twice : (wrote 0x1 opened).blk.status.word = 0x00000006 := by decide -- V-BUS-02
theorem test_close_open : (wrote 0x2 opened).blk.status.word = 0x00000004 := by decide -- V-BUS-03
theorem test_close_closed : (wrote 0x2 State.reset).blk.status.word = 0x00000604 := by decide -- V-BUS-04
theorem test_xferW_closed : (wrote 0xFE03 State.reset).blk.status.word = 0x00000604 := by decide -- V-BUS-06
/-- V-I2C-16: the address is sent unchecked, 0x00 for ADDR 0. -/
theorem test_xferW_address :
    (engineRun 2 (wrote 0x00000003 (answering [ackAnswer] 0 0 opened))).bus.trace = asEvents [.start, .tx 0x00 .ack] := by
  decide
/-- V-I2C-18: launched, S and the write address sent: STATUS = 0x00000003. -/
theorem test_xferWR_running : (engineRun 2 (trigger [ackAnswer] 0 0x40)).blk.status.word = 0x00000003 := by decide
/-- V-I2C-08: the read address not ACKed: IOCODE 1. -/
theorem test_xferWR_notReady :
    (engineRun 6 (trigger [ackAnswer, ackAnswer, nackAnswer] 0 0x40)).blk.status.word = 0x00001306 := by decide
theorem test_xferR_closed : (wrote 0x30005 State.reset).blk.status.word = 0x00000604 := by decide -- V-BUS-05
/-- V-I2C-13: one byte, NACKed by the master, in DATA[23:16]. -/
theorem test_xferR_one :
    let u := engineRun 4 (wrote 0x00010005 (answering [ackAnswer, byteAnswer 0x9A] 0 0x40 opened));
    u.blk.data = 0x9A0000 ∧ u.blk.status.word = 0x00010006 ∧
      u.bus.trace = asEvents [.start, .tx 0x81 .ack, .rx 0x9A .nack, .stop] := by decide
theorem test_crcChk_valid : (wrote 0x6 (withStatus Status.reset 0x683A7C)).blk.status.word = 0x0000000C := by decide +kernel -- V-CRC-02
theorem test_crcChk_flipped : (wrote 0x6 (withStatus Status.reset 0x683A7D)).blk.status.word = 0x00000004 := by decide +kernel -- V-CRC-04
/-- V-CONV-06. -/
theorem test_convT :
    let b := (wrote 0x7 (withStatus Status.reset 0x683A7C)).blk;
    b.raw = 0x6838 ∧ b.res64 = 0x4038AFB7FFFFFFFE ∧ b.res32 = 0x41C57DC0 ∧ b.status.word = 0x0000000C := by decide +kernel
/-- V-CONV-12 on a closed bus. -/
theorem test_convT_checksum : (wrote 0x7 (withStatus Status.reset 0x683A7D)).blk.status.word = 0x00000504 := by decide +kernel
/-- V-CONV-07. -/
theorem test_convRH :
    let b := (wrote 0x8 (withStatus Status.reset 0x4E856B)).blk;
    b.raw = 0x4E84 ∧ b.res64 = 0x40402B3A00000000 ∧ b.res32 = 0x420159D0 := by decide +kernel
/-- V-CONV-13. -/
theorem test_convRH_checksum : (wrote 0x8 (withStatus Status.reset 0x7CBAB8)).blk.status.err = 5 := by decide +kernel

/-! ### Launch, writes and reads -/

/-- V-CTL-14: an illegal word is kept in CMD. -/
theorem test_illegal_word : (wrote 0xFFFFFFFF State.reset).blk.status.word = 0x00000704 ∧
    (wrote 0xFFFFFFFF State.reset).blk.readReg .cmd = 0xFFFFFFFF := by decide
/-- V-ERR-01: the illegal check comes before the closed check. -/
theorem test_illegal_first : (wrote 0x102 State.reset).blk.status.err = 7 := by decide
/-- V-CTL-08: a CMD write while a command runs sets OVR only. -/
theorem test_overrun : wrote 0x7 (trigger [] 0 0x40) =
    { trigger [] 0 0x40 with blk := { (trigger [] 0 0x40).blk with
        status := { (trigger [] 0 0x40).blk.status with ovr := true } } } := by decide
/-- V-CTL-06 and V-CTL-07. -/
theorem test_ctrl_write : (next (hostWriteAt 0x00 0xFFFFFFFF State.reset)).blk.ctrl.word = 0x00000F7F ∧
    (next (hostWriteAt 0x00 0x00000341 opened)).blk.ctrl.word = 0x00000040 := by decide
/-- V-CTL-11. -/
theorem test_data_write : (next (hostWriteAt 0x0C 0xFF683A7C State.reset)).blk.readReg .data = 0x00683A7C := by decide
/-- V-CTL-13. -/
theorem test_reserved_reads_zero : (next (hostReadAt 0xFC opened)).host.rdata = 0 := by decide
/-- V-CTL-15. -/
theorem test_unsupported : locate 0 0x02 4 = .error .unsupportedAccess ∧ locate 0 0x08 1 = .error .unsupportedAccess ∧
    locate 0x100 0xFE 4 = .error .unsupportedAccess ∧ locate 0 0x100 4 = .error .outsideWindow ∧
    locate 0x100 0x1FC 4 = .ok 0xFC := ⟨rfl, rfl, rfl, rfl, rfl⟩
/-- V-RST-03: reset while a command runs. -/
theorem test_reset_running :
    let s := { engineRun 3 (trigger answers06 0 0x40) with turns := [.reset] };
    (next (step s)).blk = Block.reset ∧ (next (step s)).bus = ⟨false, s.bus.trace⟩ := by decide
/-- withFetchWord makes the very next step launch the word, from reset: V-BUS-01. -/
theorem test_withFetchWord : (next (step (State.reset.withFetchWord 32 0x1))).blk.status.word = 0x00000006 := by
  decide
/-- A jump to a label the program does not have is a fault. -/
theorem test_undefinedLabel :
    hostStep { State.reset with host := { State.reset.host with program := [.goto 7] } } = .fault (.undefinedLabel 7) :=
  rfl

/-- A label that two lines carry: the jump goes to the first of them (assumption 23); such a program is not well formed. -/
theorem test_repeatedLabel :
    (next (jumpTo 0 { State.reset with host := ⟨[.goto 0, .label 0, .label 0], 1, [], none, 0⟩ })).host.pc = 1 ∧
    programWf [.goto 0, .label 0, .label 0] = false := by decide

/-! ### The checks and the conversion -/

/-- R147, and V-CRC-09. -/
theorem test_crc8 : crc8 0x00 0x00 = 0x00 ∧ crc8 0x00 0xDC = 0x79 ∧ crc8 0x68 0x3A = 0x7C ∧ crc8 0x4E 0x85 = 0x6B ∧
    crc8 0x7C 0xBA = 0xEB ∧ crc8 0xFF 0xFF = 0x2D ∧ crc8 0xFF 0xFC = 0x7E := by decide +kernel
theorem test_crcAcc : crcAcc 0x7CBAB8 = 0x2D000000 ∧ crcAcc 0x683A7D = 0x31000000 ∧ crcAcc 0xFFFFFF = 0x66000000 ∧
    crcAcc 0x7CBAEB = 0 := by decide +kernel
/-- R140. -/
theorem test_crcPoly : crcPoly = 0x131#32 <<< 23 := by decide
/-- R152 (S4). -/
theorem test_decodeRaw : decodeRaw 0xFF 0xFF = 0xFFFC := by decide
/-- R151: the exact constants, and K_T1 = 6182597863449559 / 2^45. -/
theorem test_constants : (value64 kDiv).same ⟨65536, 0⟩ ∧ (value64 kH1).same ⟨125, 0⟩ ∧ (value64 kH2).same ⟨6, 0⟩ ∧
    value64 kT1 = ⟨6182597863449559, -45⟩ := by
  unfold Dy.same
  decide +kernel
/-- R151: K_T1 and K_T2 lie within half a unit of their last place of 175.72 and 46.85. -/
theorem test_constants_nearest : 2 * (6182597863449559 * 100 - 17572 * 2 ^ 45 : Int).natAbs < 100 ∧
    (value64 kT2).exp = -47 ∧ 2 * ((value64 kT2).num * 100 - 4685 * 2 ^ 47).natAbs < 100 := by decide +kernel
/-- R159: the boundaries. -/
theorem test_boundaries_T : measure64 0x0000 kT1 kT2 = 0xC0476CCCCCCCCCCD ∧ measure64 0xFFFC kT1 kT2 = 0x40601B7F2E147AE1 ∧
    measure32 0x0000 kT1 kT2 = 0xC23B6666 ∧ measure32 0xFFFC kT1 kT2 = 0x4300DBF9 := by decide +kernel
theorem test_boundaries_RH : measure64 0x0000 kH1 kH2 = 0xC018000000000000 ∧ measure64 0xFFFC kH1 kH2 = 0x405DBF8300000000 ∧
    measure32 0x0000 kH1 kH2 = 0xC0C00000 ∧ measure32 0xFFFC kH1 kH2 = 0x42EDFC18 := by decide +kernel
/-- V-CONV-08 and V-CONV-10. -/
theorem test_conversion : measure64 0x8000 kT1 kT2 = 0x40448147AE147AE1 ∧ measure32 0x8000 kT1 kT2 = 0x42240A3D ∧
    measure64 0x00DC kT1 kT2 = 0xC047214B9999999A ∧ measure32 0x00DC kT1 kT2 = 0xC2390A5D := by decide +kernel
/-- R77: the address bytes of 0x40. -/
theorem test_addressByte : addressByte 0x40 false = 0x80 ∧ addressByte 0x40 true = 0x81 ∧ addressByte 0x7F true = 0xFF := by
  decide
/-- R76: the acknowledge bit is the ninth, 0 for ACK. -/
theorem test_levels : (Symbol.tx 0x80 .ack).levels.map sampled =
    some [true, false, false, false, false, false, false, false, false] := by decide
/-- A history of a temperature trigger taken and its read address NACKed. -/
def triggered : List BusEvent :=
  asEvents [.start, .tx 0x80 .ack, .tx 0xF3 .ack, .repStart, .tx 0x81 .nack, .stop]
/-- A history of a soft reset taken. -/
def softReset : List BusEvent := asEvents [.start, .tx 0x80 .ack, .tx 0xFE .ack, .stop]

/-- The latency of R204: 50 ms waited after a temperature trigger, not 49. -/
theorem test_conversionOver :
    (heard sensorDefaults (triggered ++ [.quiet 50])).conversionOver sensorDefaults = true ∧
    (heard sensorDefaults (triggered ++ [.quiet 49])).conversionOver sensorDefaults = false := by decide
/-- R202: the window is 15 ms, also where a byte is taken inside it; R209: 0x02 is assumed only after it. -/
theorem test_resetWindow :
    (heard sensorDefaults (softReset ++ [.quiet 14])).inResetWindow = true ∧
    (heard sensorDefaults (softReset ++ asEvents [.start, .tx 0x80 .ack, .tx 0xE7 .ack, .stop])).inResetWindow = true ∧
    (heard sensorDefaults (softReset ++ [.quiet 15])).inResetWindow = false ∧
    (heard sensorDefaults (softReset ++ [.quiet 15])).known = true ∧
    (heard sensorDefaults (asEvents [.start, .tx 0x80 .ack, .tx 0xE7 .ack])).known = false := by decide
/-- A history of an init that succeeded (R181 to R183): soft reset, 15 ms, RDUSER read back as 0x02. -/
def initialised : List BusEvent :=
  softReset ++ [.quiet 15] ++
    asEvents [.start, .tx 0x80 .ack, .tx 0xE7 .ack, .repStart, .tx 0x81 .ack, .rx 0x02 .nack, .stop]
/-- A state with the bus open, this history behind it and these answers to come. -/
def afterHistory (tr : List BusEvent) (as : List Answer) : State :=
  { answering as 0 0x40 opened with bus := ⟨false, tr⟩ }

/-- R184 and D49: init succeeds with 0x02 read back after the wait, not without the wait and not with another byte. -/
theorem test_initDone :
    (heard sensorDefaults initialised).settled = true ∧
    (heard sensorDefaults (softReset ++ [.quiet 14] ++ asEvents [.start, .tx 0x80 .ack, .tx 0xE7 .ack, .repStart,
      .tx 0x81 .ack, .rx 0x02 .nack, .stop])).settled = false ∧
    (heard sensorDefaults (softReset ++ [.quiet 15] ++ asEvents [.start, .tx 0x80 .ack, .tx 0xE7 .ack, .repStart,
      .tx 0x81 .ack, .rx 0x03 .nack, .stop])).settled = false ∧
    (heard sensorDefaults (initialised ++ softReset)).settled = false := by decide
/-- A read back of RDUSER: these bytes received. -/
def readBack (bs : List Byte) : List BusEvent :=
  asEvents ([.start, .tx 0x80 .ack, .tx 0xE7 .ack, .repStart, .tx 0x81 .ack] ++ readSymbols bs ++ [.stop])
/-- R183 and R184: init reads one byte; two bytes, the first 0x02, are no read back of init. -/
theorem test_initReadsOneByte :
    (heard sensorDefaults (softReset ++ [.quiet 15] ++ readBack [0x02])).settled = true ∧
    (heard sensorDefaults (softReset ++ [.quiet 15] ++ readBack [0x02, 0x02])).settled = false := by decide
/-- R202: another value than 0x02 means an unknown state, before init and after it, and a second read does not end it. -/
theorem test_unknownState :
    (heard sensorDefaults (softReset ++ [.quiet 15] ++ readBack [0x03] ++ readBack [0x02])).settled = false ∧
    (heard sensorDefaults (initialised ++ readBack [0x03])).settled = false ∧
    (heard sensorDefaults (initialised ++ readBack [0x03])).known = false := by decide
/-- R202: a soft reset taken inside the window is no success: what was strange stays so; one after the window is. -/
theorem test_resetInWindow :
    let strange := softReset ++ asEvents [.start, .tx 0x80 .ack, .tx 0x77 .ack, .stop]
    (heard sensorDefaults (strange ++ softReset ++ [.quiet 15])).known = false ∧
    (heard sensorDefaults (strange ++ softReset)).inResetWindow = true ∧
    (heard sensorDefaults (strange ++ [.quiet 15] ++ softReset ++ [.quiet 15])).known = true := by decide
/-- R205 and R209: a result stays pending over a NACKed read and a NACKed write address, and is pending no more once it
was read out; nothing is pending without a trigger, nor before init has succeeded. -/
theorem test_pending :
    (heard sensorDefaults (initialised ++ triggered ++ asEvents [.start, .tx 0x80 .nack, .stop, .start])).asked = .result ∧
    (heard sensorDefaults (initialised ++ triggered ++ asEvents [.start, .tx 0x81 .ack, .rx 0x68 .nack, .stop])).asked =
      .sending ∧
    (heard sensorDefaults (initialised ++ triggered ++ asEvents [.start, .tx 0x81 .ack, .rx 0x68 .nack, .stop,
      .start])).asked = .nothing ∧
    (heard sensorDefaults (initialised ++ asEvents [.start])).asked = .nothing ∧
    (heard sensorDefaults triggered).asked = .nothing := by decide
/-- D48: a block reset in the middle of a transaction leaves only draws, at once and after the next START; one between
transactions does not. -/
theorem test_cutOff :
    (let s := { afterHistory (initialised ++ asEvents [.start, .tx 0x80 .ack]) [] with bus := ⟨true, initialised ++
        asEvents [.start, .tx 0x80 .ack]⟩ };
      (s.heard sensorDefaults).settled = true ∧ (s.blockReset.heard sensorDefaults).settled = false) ∧
    (heard sensorDefaults (initialised ++ asEvents [.start, .tx 0x80 .ack, .start])).settled = false ∧
    (heard sensorDefaults (initialised ++ asEvents [.start, .tx 0x80 .ack, .start])).known = false ∧
    ((afterHistory initialised []).blockReset.heard sensorDefaults).settled = true := by decide
/-- A failed trigger as the last command, 49 ms and 50 ms waited since (R240): the write address NACKed. -/
def failedTrigger : State := engineRun 3 (trigger [nackAnswer] 0 0x40)
theorem test_conversionDelay :
    triggerFailed sensorDefaults 50 failedTrigger ∧ waitedBetween failedTrigger failedTrigger = 0 ∧
    waitedBetween failedTrigger (failedTrigger.pause 50) = 50 :=
  ⟨⟨by decide, by decide, 0xF3, by decide, by decide⟩, by decide, by decide⟩
/-- R207: a stretch that ends, and one that does not. -/
theorem test_releasesScl :
    ReleasesScl { opened with turns := [.partner .holdScl, .engine, .partner .releaseScl] } ∧
    ¬ ReleasesScl { opened with turns := [.partner .holdScl, .engine] } := by
  unfold ReleasesScl
  decide

/-! ### Witnesses: for each statement with hypotheses a state and operands that meet them together -/

theorem witness_DecodeAndEncodeAgree : Instr.wf (.xferWR 0xFF 3) = true ∧ Instr.wf (.xferR 1) = true ∧
    decode 0x0003FF04 = .ok (.xferWR 0xFF 3) := by decide

/-- A CMD write of CLRSTAT as the next turn: as an access, as a host line, as a word placed. -/
theorem witness_StepRunsTheDecodedCommand :
    (let s := { State.reset with turns := [.access (.write (State.reset.cfg.base + 0x08) 4 0x9)] };
      s.blk.status.busy = false ∧ decode 0x9 = .ok .clrstat ∧
        s.turns = .access (.write (s.cfg.base + 0x08) 4 0x9) :: []) ∧
    (let s := { State.reset with turns := [.host], host := ⟨[.write 0x08 0x9], 0, [], none, 0⟩ };
      s.blk.status.busy = false ∧ s.turns = .host :: [] ∧ s.host.program[s.host.pc]? = some (.write 0x08 0x9)) ∧
    (0x9 < 2 ^ 32 ∧ decode (BitVec.ofNat 32 0x9) = .ok .clrstat ∧ opened.blk.status.busy = false ∧
      opened.blk.eng.phase = .idle) ∧
    ({ opened with turns := [.access (.read 0x04 4)] } : State).turns = .access (.read 0x04 4) :: [] := by decide

theorem witness_IllegalWordCompletesWithErr7 : opened.blk.status.busy = false ∧ opened.blk.eng.phase = .idle ∧
    decode 0x0000000A = .error .reservedOp ∧ decode 0x00040004 = .error .reservedBit := by decide

theorem witness_ClosedBusRejectsBusCommands : State.reset.blk.status.busy = false ∧ State.reset.blk.eng.phase = .idle ∧
    State.reset.blk.status.isOpen = false ∧ decode 0x2 = .ok .busClose ∧ decode 0xFF03 = .ok (.xferW 0xFF) ∧
    decode 0x10004 = .ok (.xferWR 0 1) ∧ decode 0x30005 = .ok (.xferR 3) := by decide

/-- Both outcomes: a bus command on an open bus, and on a closed one. -/
theorem witness_OnlyBusCommandsOutliveTheirLaunch :
    (opened.blk.status.busy = false ∧ opened.blk.status.isOpen = true ∧ decode 0x30005 = .ok (.xferR 3)) ∧
    (State.reset.blk.status.busy = false ∧ State.reset.blk.status.isOpen = false) := by decide

theorem witness_WriteWhileBusyOnlySetsOvr : (trigger [] 0 0x40).blk.status.busy = true := by decide
/-- OVR cleared by CLRSTAT, and by reset. -/
theorem witness_WriteWhileBusyOnlySetsOvr_cleared :
    (let s := (withStatus status016 0).withFetchWord 32 0x9;
      ∃ t, step s = .next t ∧ s.blk.status.ovr = true ∧ t.blk.status.ovr = false) ∧
    (let s := { withStatus status016 0 with turns := [.reset] };
      ∃ t, step s = .next t ∧ s.blk.status.ovr = true ∧ t.blk.status.ovr = false) :=
  ⟨⟨_, next_of_isNext (by decide), by decide, by decide⟩, ⟨_, next_of_isNext (by decide), by decide, by decide⟩⟩

/-- An engine about to complete, for each outcome: success, NACK on the address, NACK on the byte, arbitration lost. -/
def atSuccess : State := engineRun 3 (wrote 0x0000FE03 (answering [ackAnswer, ackAnswer] 0 0x40 opened))
def atAddrNack : State := engineRun 2 (wrote 0x00030005 (answering [nackAnswer] 0 0x40 opened))
def atDataNack : State := engineRun 3 (wrote 0x0000FE03 (answering [ackAnswer, nackAnswer] 0 0x40 opened))
def atArbLoss : State := engineRun 1 (wrote 0x00030005 (answering [arbAnswer] 0 0x40 opened))

theorem atSuccess_inv : atSuccess.Inv where
  busyRuns := by decide
  runClear := by decide
  runOpen := by decide
  runLatched := by decide
  runPlaced := fun _ => ⟨by unfold Eng.operandsLegal; decide, by decide, by exact Or.inl ⟨rfl, rfl⟩⟩
  holdsBus := by unfold Eng.atBegin; decide
  outcome := by unfold outcomeLegal; decide
  delivered := by decide
  results := .inl (by decide)
  hostVars := ⟨List.Pairwise.nil, fun _ h => nomatch h⟩

theorem atAddrNack_inv : atAddrNack.Inv where
  busyRuns := by decide
  runClear := by decide
  runOpen := by decide
  runLatched := by decide
  runPlaced := fun _ => ⟨by unfold Eng.operandsLegal; decide, by decide, by exact Or.inr (Or.inl rfl)⟩
  holdsBus := by unfold Eng.atBegin; decide
  outcome := by unfold outcomeLegal; decide
  delivered := by decide
  results := .inl (by decide)
  hostVars := ⟨List.Pairwise.nil, fun _ h => nomatch h⟩

theorem atDataNack_inv : atDataNack.Inv where
  busyRuns := by decide
  runClear := by decide
  runOpen := by decide
  runLatched := by decide
  runPlaced := fun _ => ⟨by unfold Eng.operandsLegal; decide, by decide, by exact Or.inr (Or.inr ⟨rfl, rfl⟩)⟩
  holdsBus := by unfold Eng.atBegin; decide
  outcome := by unfold outcomeLegal; decide
  delivered := by decide
  results := .inl (by decide)
  hostVars := ⟨List.Pairwise.nil, fun _ h => nomatch h⟩

theorem atArbLoss_inv : atArbLoss.Inv where
  busyRuns := by decide
  runClear := by decide
  runOpen := by decide
  runLatched := by decide
  runPlaced := fun _ => ⟨by unfold Eng.operandsLegal; decide, by decide, by exact ⟨Or.inl rfl, Nat.le_refl 0⟩⟩
  holdsBus := by unfold Eng.atBegin; decide
  outcome := by unfold outcomeLegal; decide
  delivered := by decide
  results := .inl (by decide)
  hostVars := ⟨List.Pairwise.nil, fun _ h => nomatch h⟩

/-- A launch that completes at once, for each arm of the statement. -/
theorem witness_OutcomesOfEachCommand_launch :
    opened.blk.status.busy = false ∧ (wrote 0x0 opened).blk.eng.phase = .idle ∧ (wrote 0x1 opened).blk.eng.phase = .idle ∧
    (wrote 0x2 opened).blk.eng.phase = .idle ∧ (wrote 0x9 opened).blk.eng.phase = .idle ∧
    (wrote 0xA opened).blk.eng.phase = .idle ∧ (wrote 0x30005 State.reset).blk.eng.phase = .idle := by decide
theorem witness_OutcomesOfEachCommand_check : (wrote 0x6 opened).blk.eng.phase = .idle ∧
    (wrote 0x7 opened).blk.eng.phase = .idle ∧ (wrote 0x8 opened).blk.eng.phase = .idle := by decide +kernel
theorem witness_OutcomesOfEachCommand_engine : ∀ s ∈ [atSuccess, atAddrNack, atDataNack, atArbLoss],
    s.Inv ∧ s.blk.eng.phase = .run ∧ (engineStep s).blk.eng.phase = .idle := by
  intro s h
  simp only [List.mem_cons, List.not_mem_nil, or_false] at h
  rcases h with rfl | rfl | rfl | rfl
  · exact ⟨atSuccess_inv, by decide, by decide⟩
  · exact ⟨atAddrNack_inv, by decide, by decide⟩
  · exact ⟨atDataNack_inv, by decide, by decide⟩
  · exact ⟨atArbLoss_inv, by decide, by decide⟩

theorem witness_ReservedCodesAreNeverProduced : ∃ t, step atDataNack = .next t ∧ t.blk.status.err = 3 :=
  ⟨_, next_of_isNext (by decide), by decide⟩

theorem witness_ConvConvertsAValidPayload : crcOk (withStatus Status.reset 0x683A7C).blk.data = true := by decide +kernel
theorem witness_BadChecksumIsNeverConverted : crcOk (withStatus Status.reset 0x683A7D).blk.data = false ∧
    crcOk (withStatus Status.reset 0x683A7C).blk.data = true := by decide +kernel

/-- A valid payload, and patterns of weight 1, 2, 3 and 5. -/
theorem witness_CrcErrorDetection : crcOk 0x683A7C = true ∧
    [0x800000#24, 0x800001#24, 0x800003#24, 0xF00001#24].map (fun e => ((List.range 24).filter e.getLsbD).length) =
      [1, 2, 3, 5] := by decide +kernel

/-- Two ties, rounded to an even number down and up. -/
theorem witness_RoundingIsToNearestEven : 2 * 1 = (2 * roundEven 1 1 + 1) * 2 ^ 1 ∧
    2 * roundEven 3 1 * 2 ^ 1 = 2 * 3 + 2 ^ 1 := by decide
/-- 2^53 + 1 lies half way between the binary64 values 2^53, which it rounds to, and 2^53 + 2. -/
theorem witness_RoundingIsToNearestEven_tie :
    let rat (x : Dy) : ℚ := (x.num : ℚ) * (2 : ℚ) ^ x.exp
    let x : Dy := ⟨2 ^ 53 + 1, 0⟩
    let b := 0x4340000000000001
    (binary64.bits (binary64.fl x) < 2 ^ (1 + binary64.expo + binary64.frac) ∧
      binary64.bits (binary64.fl x) / 2 ^ binary64.frac % 2 ^ binary64.expo ≠ 2 ^ binary64.expo - 1) ∧
    (b < 2 ^ (1 + binary64.expo + binary64.frac) ∧
      b / 2 ^ binary64.frac % 2 ^ binary64.expo ≠ 2 ^ binary64.expo - 1) ∧
    |rat x - rat (binary64.fl x)| = |rat x - rat (binary64.value b)| ∧
    rat (binary64.value b) ≠ rat (binary64.fl x) := by
  have hf : binary64.fl ⟨2 ^ 53 + 1, 0⟩ = ⟨2 ^ 52, 1⟩ := by decide +kernel
  have hv : binary64.value 0x4340000000000001 = ⟨2 ^ 52 + 1, 1⟩ := by decide +kernel
  intro rat x b
  have hx : rat x = 2 ^ 53 + 1 := by simp only [rat, x]; norm_num
  have hfx : rat (binary64.fl x) = 2 ^ 53 := by simp only [rat, x, hf]; norm_num
  have hvb : rat (binary64.value b) = 2 ^ 53 + 2 := by simp only [rat, b, hv]; norm_num
  refine ⟨by decide +kernel, by decide, ?_, ?_⟩
  · rw [hx, hfx, hvb]; norm_num
  · rw [hfx, hvb]; norm_num

/-- The least subnormal, the greatest finite number and its negative. -/
theorem witness_EncodingsStandForTheirValues :
    (0x0000000000000001#64).extractLsb' 52 11 ≠ 0x7FF#11 ∧ 0x0000000000000001#64 ≠ 0x8000000000000000 ∧
    (0xFFEFFFFFFFFFFFFF#64).extractLsb' 52 11 ≠ 0x7FF#11 ∧ 0xFFEFFFFFFFFFFFFF#64 ≠ 0x8000000000000000 ∧
    (0x00000001#32).extractLsb' 23 8 ≠ 0xFF#8 ∧ 0x00000001#32 ≠ 0x80000000 ∧
    (0xFF7FFFFF#32).extractLsb' 23 8 ≠ 0xFF#8 ∧ 0xFF7FFFFF#32 ≠ 0x80000000 := by decide

theorem witness_DecodeMasksTheStatusBits : (0x03 : Byte) &&& 0xFC = 0 := by decide
theorem witness_HumidityIsExact : (0xFFFC : BitVec 16) &&& 3 = 0 ∧ (0x0000 : BitVec 16) &&& 3 = 0 := by decide
theorem witness_ConversionIsMonotone : (0x0000 : BitVec 16) &&& 3 = 0 ∧ (0xFFFC : BitVec 16) &&& 3 = 0 ∧
    (0x0000 : BitVec 16) ≤ 0xFFFC := by decide

theorem witness_DataWritesAndReads : opened.blk.status.busy = false := by decide
/-- STATUS, the first offset, and the last reserved one. -/
theorem witness_ReadOnlyWritesAreIgnored : ∀ off ∈ [0x04, 0x1C, 0x20, 0xFC],
    off % 4 = 0 ∧ off < 0x100 ∧ off ≠ 0x00 ∧ off ≠ 0x08 ∧ off ≠ 0x0C := by decide
theorem witness_ReadsHaveNoSideEffect : ∀ off ∈ [0x00, 0x04, 0x08, 0x0C, 0x10, 0x14, 0x18, 0x1C, 0x20, 0xFC],
    off % 4 = 0 ∧ off < 0x100 := by decide
/-- The first and the last admitted address; a byte, a misaligned word, a double word, and a word across each end. -/
theorem witness_OnlyWordAccessesAreAdmitted :
    (∀ addr ∈ [0, 0xFC], State.reset.cfg.base ≤ addr ∧ addr < State.reset.cfg.base + 0x100 ∧
      (addr - State.reset.cfg.base) % 4 = 0) ∧
    (let s := { State.reset with cfg := ⟨1, true, 0⟩ };
      ∀ p ∈ [(0x100, 1, 0x100), (0x102, 4, 0x102), (0x100, 8, 0x100), (0xFE, 4, 0x100), (0x1FE, 4, 0x1FE)],
        p.1 ≤ p.2.2 ∧ p.2.2 < p.1 + p.2.1 ∧ s.cfg.base ≤ p.2.2 ∧ p.2.2 < s.cfg.base + 0x100 ∧
          ¬ (p.2.1 = 4 ∧ s.cfg.base ≤ p.1 ∧ (p.1 - s.cfg.base) % 4 = 0)) := by decide

/-- OPEN changed by each of OPEN, CLOSE and reset. -/
theorem witness_OnlyOpenCloseAndResetChangeOpen :
    (∃ t, step (State.reset.withFetchWord 32 0x1) = .next t ∧
      t.blk.status.isOpen ≠ (State.reset.withFetchWord 32 0x1).blk.status.isOpen) ∧
    (∃ t, step (opened.withFetchWord 32 0x2) = .next t ∧
      t.blk.status.isOpen ≠ (opened.withFetchWord 32 0x2).blk.status.isOpen) ∧
    (∃ t, step { opened with turns := [.reset] } = .next t ∧ t.blk.status.isOpen ≠ opened.blk.status.isOpen) :=
  ⟨⟨_, next_of_isNext (by decide), by decide⟩, ⟨_, next_of_isNext (by decide), by decide⟩,
    ⟨_, next_of_isNext (by decide), by decide⟩⟩

/-- A write of CTRL on an open bus, and while a command runs. -/
theorem witness_CtrlIsImmutableWhileOpen : ∀ s ∈ [opened, trigger [] 0 0x40],
    let s' := { s with turns := [.access (.write 0x00 4 0x341)] };
    (s'.blk.status.isOpen = true ∨ s'.blk.status.busy = true) ∧ (∃ t, step s' = .next t) ∧
      ∀ rest, s'.turns ≠ .reset :: rest := by
  intro s h
  simp only [List.mem_cons, List.not_mem_nil, or_false] at h
  rcases h with rfl | rfl
  · exact ⟨.inl (by decide), ⟨_, next_of_isNext (by decide)⟩, fun rest h => by cases h⟩
  · exact ⟨.inl (by decide), ⟨_, next_of_isNext (by decide)⟩, fun rest h => by cases h⟩

/-- A word as the next thing launched, on a payload of one's own. -/
def toLaunch (w : Nat) (st : Status) (d : BitVec 24) : State := (withStatus st d).withFetchWord 32 w

/-- RAW changed by a step that launches CONV.T, by one that launches CONV.RH, and by reset. -/
theorem witness_ResultsAreWrittenOnlyByConv :
    (∀ w ∈ [0x7, 0x8], let s := toLaunch w Status.reset 0x683A7C; ∃ t, step s = .next t ∧ t.blk.raw ≠ s.blk.raw) ∧
    (let s := { State.reset with blk := { Block.reset with raw := 4 }, turns := [.reset] };
      ∃ t, step s = .next t ∧ t.blk.raw ≠ s.blk.raw) := by
  refine ⟨fun w hw => ?_, ⟨_, rfl, by decide⟩⟩
  simp only [List.mem_cons, List.not_mem_nil, or_false] at hw
  rcases hw with rfl | rfl <;> exact ⟨_, next_of_isNext (by decide +kernel), by decide +kernel⟩

/-- CRC_OK changed by a step that launches CRC.CHK, CONV.T, CONV.RH or CLRSTAT, and by reset. -/
theorem witness_CrcOkHoldsTheLastEvaluation :
    (∀ w ∈ [0x6, 0x7], let s := toLaunch w Status.reset 0x683A7C;
      ∃ t, step s = .next t ∧ t.blk.status.crcOk ≠ s.blk.status.crcOk) ∧
    (∀ w ∈ [0x8, 0x9], let s := toLaunch w status3000E 0x683A7D;
      ∃ t, step s = .next t ∧ t.blk.status.crcOk ≠ s.blk.status.crcOk) ∧
    (let s := { withStatus status3000E 0 with turns := [.reset] };
      ∃ t, step s = .next t ∧ t.blk.status.crcOk ≠ s.blk.status.crcOk) := by
  refine ⟨fun w hw => ?_, fun w hw => ?_, ⟨_, rfl, by decide⟩⟩ <;>
    simp only [List.mem_cons, List.not_mem_nil, or_false] at hw <;>
    rcases hw with rfl | rfl <;> exact ⟨_, next_of_isNext (by decide +kernel), by decide +kernel⟩

/-- A host access, a host line, and a host line with no turn listed while SCL is held, each while a command runs. -/
theorem witness_HostCannotDisturbARunningCommand :
    (let s := { trigger [] 0 0x40 with turns := [.access (.write 0x08 4 0x9)] };
      s.blk.status.busy = true ∧ (∃ a rest, s.turns = .access a :: rest) ∧ ∃ t, step s = .next t) ∧
    (let s := { trigger [] 0 0x40 with turns := [.host], host := ⟨[.write 0x0C 0x123456], 0, [], none, 0⟩ };
      s.blk.status.busy = true ∧ (∃ rest, s.turns = .host :: rest) ∧ ∃ t, step s = .next t) ∧
    (let s := { trigger [] 0 0x40 with partner := ⟨true, [], 0⟩, host := ⟨[.write 0x0C 0x123456], 0, [], none, 0⟩ };
      s.blk.status.busy = true ∧ s.turns = [] ∧ s.partner.holdsScl = true ∧ ∃ t, step s = .next t) :=
  ⟨⟨by decide, ⟨_, _, rfl⟩, ⟨_, next_of_isNext (by decide)⟩⟩, ⟨by decide, ⟨_, rfl⟩, ⟨_, next_of_isNext (by decide)⟩⟩,
    ⟨by decide, rfl, rfl, ⟨_, next_of_isNext (by decide)⟩⟩⟩

/-- Reset asserted while a command runs; and, the partner holding SCL, an engine step that does not come. -/
theorem witness_BlockResetAtAnyTime :
    ({ trigger [] 0 0x40 with turns := [.reset] } : State).turns = .reset :: [] ∧
    (let s := { trigger [] 0 0x40 with partner := ⟨true, [], 0⟩, turns := [.engine] };
      s.blk.status.busy = true ∧ s.partner.holdsScl = true ∧ (∀ rest, s.turns ≠ .reset :: rest) ∧
        ∃ t, step s = .next t) :=
  ⟨rfl, by decide, by decide, (fun rest h => by cases h), ⟨_, next_of_isNext (by decide)⟩⟩

theorem witness_BusCommandsStartTheEngine : opened.blk.status.isOpen = true := by decide
theorem witness_AnEngineStepIsOneSymbol : atSuccess.blk.eng.phase = .run ∧ atSuccess.partner.holdsScl = false ∧
    atSuccess.turns = [] ∧ opened.blk.eng.phase = .idle ∧ opened.turns = [] ∧
    ({ atSuccess with partner := ⟨true, [], 0⟩ } : State).partner.holdsScl = true ∧
    ({ atSuccess with turns := [.engine] } : State).turns = .engine :: [] := by decide

theorem witness_RegistersChangeOnlyAtCompletion : (engineStep (trigger [] 0 0x40)).blk.eng.phase = .run := by decide
theorem witness_FailureLeavesData : ∀ s ∈ [atAddrNack, atDataNack, atArbLoss],
    s.Inv ∧ s.blk.eng.phase = .run ∧ (engineStep s).blk.eng.phase = .idle ∧ (engineStep s).blk.status.err = 3 := by
  intro s h
  simp only [List.mem_cons, List.not_mem_nil, or_false] at h
  rcases h with rfl | rfl | rfl
  · exact ⟨atAddrNack_inv, by decide, by decide, by decide⟩
  · exact ⟨atDataNack_inv, by decide, by decide, by decide⟩
  · exact ⟨atArbLoss_inv, by decide, by decide, by decide⟩

/-- No retry, and the whole budget of 15. -/
theorem witness_XferWSucceeds : ∀ r ∈ [0, 15],
    let s := answering (addressAnswers r ++ ackAnswer :: []) 15 0x40 opened;
    s.blk.status.isOpen = true ∧ s.partner.holdsScl = false ∧ r ≤ s.blk.ctrl.retry.toNat ∧
      s.partner.answers = addressAnswers r ++ ackAnswer :: [] := by decide
/-- One and three bytes, no retry and the whole budget in both segments. -/
theorem witness_XferWRSucceeds : ∀ p ∈ [(0, [0x68, 0x3A, 0x7C], 3#2), (15, [0x02], 1#2)],
    let as := addressAnswers p.1 ++ ackAnswer :: (addressAnswers p.1 ++ (p.2.1.map byteAnswer ++ []));
    let s := answering as 15 0x40 opened;
    s.blk.status.isOpen = true ∧ s.partner.holdsScl = false ∧ p.2.2 ≠ 0 ∧ p.2.1.length = p.2.2.toNat ∧
      p.1 ≤ s.blk.ctrl.retry.toNat ∧ s.partner.answers = as := by decide
theorem witness_XferRSucceeds : ∀ p ∈ [(0, [0x4E, 0x85, 0x6B], 3#2), (15, [0x9A], 1#2)],
    let as := addressAnswers p.1 ++ (p.2.1.map byteAnswer ++ []);
    let s := answering as 15 0x40 opened;
    s.blk.status.isOpen = true ∧ s.partner.holdsScl = false ∧ p.2.2 ≠ 0 ∧ p.2.1.length = p.2.2.toNat ∧
      p.1 ≤ s.blk.ctrl.retry.toNat ∧ s.partner.answers = as := by decide
/-- V-I2C-14 and V-I2C-15: budgets 0 and 15. -/
theorem witness_AddressNackSpendsTheBudget : ∀ n ∈ [0#4, 15#4],
    let s := answering (List.replicate (n.toNat + 1) nackAnswer ++ []) n 0x40 opened;
    s.blk.status.isOpen = true ∧ s.partner.holdsScl = false ∧
      s.partner.answers = List.replicate (s.blk.ctrl.retry.toNat + 1) nackAnswer ++ [] := by decide
/-- V-I2C-08, and with a retry of the write address before. -/
theorem witness_NotReadyReadAddressFails : ∀ p ∈ [(0#4, 0), (2#4, 1)],
    let as := addressAnswers p.2 ++ ackAnswer :: (List.replicate (p.1.toNat + 1) nackAnswer ++ []);
    let s := answering as p.1 0x40 opened;
    s.blk.status.isOpen = true ∧ s.partner.holdsScl = false ∧ p.2 ≤ s.blk.ctrl.retry.toNat ∧
      s.partner.answers =
        addressAnswers p.2 ++ ackAnswer :: (List.replicate (s.blk.ctrl.retry.toNat + 1) nackAnswer ++ []) := by decide

/-- The write byte ACKed and NACKed, in XFER.W and in XFER.WR. -/
theorem witness_WriteDataNackIsNotRetried : ∀ p ∈ [(0x0000FE03#32, ackAnswer, Ack.ack), (0x0003F304#32, ackAnswer, Ack.ack),
      (0x0000FE03#32, nackAnswer, Ack.nack)],
    let s := engineRun 2 (wrote p.1 (answering [ackAnswer, p.2.1] 0 0x40 opened));
    s.blk.eng.phase = .run ∧ s.partner.holdsScl = false ∧ s.blk.eng.step = .wdata ∧
      (s.cfg.arbPossible = false ∨ s.answer.arb = false) ∧ s.answer.ack = p.2.2 := by decide
/-- Arbitration lost at the address byte, at the write byte and at a read byte; and a completion where it cannot be. -/
theorem witness_ArbitrationLossEndsTheCommand :
    (∀ p ∈ [(1, [arbAnswer]), (2, [ackAnswer, arbAnswer]), (6, [ackAnswer, ackAnswer, ackAnswer, byteAnswer 0x11, arbAnswer])],
      let s := engineRun p.1 (trigger p.2 0 0x40);
      s.blk.eng.phase = .run ∧ s.partner.holdsScl = false ∧ s.cfg.arbPossible = true ∧ s.answer.arb = true ∧
        (s.blk.eng.step = .addr ∨ s.blk.eng.step = .wdata ∨ s.blk.eng.step = .rdata)) ∧
    (let s := { atAddrNack with cfg := ⟨0, false, 0⟩ };
      s.cfg.arbPossible = false ∧ s.blk.eng.phase = .run ∧ (engineStep s).blk.eng.phase = .idle) := by decide
/-- A write command and a read command of each length at their STOP. -/
theorem witness_SuccessDeliversTheBytes : ∀ s ∈ [atSuccess, engineRun 8 (trigger answers06 0 0x40),
      engineRun 3 (wrote 0x00010005 (answering [ackAnswer, byteAnswer 0x9A] 0 0x40 opened))],
    s.blk.eng.phase = .run ∧ s.partner.holdsScl = false ∧ s.blk.eng.step = .stop ∧ s.blk.eng.why = .success := by decide
theorem witness_EveryBusCommandEnds : atArbLoss.Inv ∧ atArbLoss.blk.eng.phase = .run ∧
    atArbLoss.partner.holdsScl = false := ⟨atArbLoss_inv, by decide, by decide⟩
/-- A clock stretched once more and then released. -/
theorem witness_EveryBusCommandEnds_stretched :
    let s := { atArbLoss with turns := [.partner .holdScl, .engine, .partner .releaseScl] };
    s.Inv ∧ s.blk.eng.phase = .run ∧ ReleasesScl s ∧ Turn.reset ∉ s.turns ∧
      ∀ k, k ≤ s.turns.length → ∃ t, stepRun k s = .next t := by
  refine ⟨?_, by decide, by unfold ReleasesScl; decide, by decide, fun k hk => ?_⟩
  · obtain ⟨a, b, c, d, e, f, g, h, i, j⟩ := atArbLoss_inv
    exact ⟨a, b, c, d, e, f, g, h, i, j⟩
  · have hk' : k ≤ 3 := hk
    interval_cases k <;> exact ⟨_, rfl⟩

theorem witness_NoEngineStateSurvives : Instr.wf (.xferWR 0xF3 3) = true ∧ Instr.wf (.xferR 1) = true ∧
    opened.blk.status.isOpen = true := by decide

/-- A host turn at a line of each kind, and past the last line; the same with no turn listed. -/
theorem witness_HostLinesDoWhatTheySay :
    (∀ l ∈ [HostLine.label 0, .write 0x0C 5, .read 0x04 0, .read 0x02 0, .goto 7, .sleep 15, .ifGoto ⟨⟨0, 0, 0⟩, true, .num 0⟩ 0, .ifGoto ⟨⟨0, 0, 0⟩, true, .num 1⟩ 0,
        .goto 0, .pair 4 2 3, .ret .ok],
      let s := { State.reset with turns := [.host], host := ⟨[l, .label 0], 0, [(3, 7)], none, 0⟩ };
      s.turns = .host :: [] ∧ s.host.program[s.host.pc]? = some l) ∧
    varsCanonical [(3, 7)] ∧ State.reset.host.program[State.reset.host.pc]? = none ∧ State.reset.turns = [] ∧
    State.reset.blk.eng.phase = .idle ∧ varsCanonical State.reset.host.vars := by
  unfold varsCanonical
  decide

/-- The branch taken, and not taken. -/
theorem witness_HostLinesDoWhatTheySay_if :
    HostCond.holds ⟨⟨0, 0, 0⟩, true, .num 0⟩ [] = true ∧ HostCond.holds ⟨⟨0, 0, 0⟩, true, .num 1⟩ [] = false ∧
    [HostLine.goto 0, .label 0].findIdx? (· == .label 0) = some 1 ∧
    [HostLine.goto 7, .label 0].findIdx? (· == .label 7) = none ∧ Reg.ofOffset 0x02 = none ∧
    Reg.ofOffset 0x04 = some .status := by decide
theorem witness_PartnerMovesOnlyItself :
    ({ opened with turns := [.partner .holdScl] } : State).turns = .partner .holdScl :: [] ∧
    ({ opened with turns := [.partner .releaseScl] } : State).turns = .partner .releaseScl :: [] ∧
    ({ opened with turns := [.partner (.answer ackAnswer)] } : State).turns = .partner (.answer ackAnswer) :: [] ∧
    ({ opened with partner := ⟨false, [ackAnswer], 0⟩ } : State).partner.answers = ackAnswer :: [] := by decide

/-- The premises of a conforming sensor, each decided. -/
theorem conforms_of_decided {c : SensorCommands} {l : SensorLife} {s : State}
    (h : (s.blk.eng.step = .addr → s.blk.eng.addr = sensorAddress) ∧ AnswersAtItsAddress c s ∧ UserRegisterReset c l s ∧
      NotReadyIsNacked c l s ∧ LatencyBounded c l s ∧ ReadyIsAcked c l s ∧ ResultFormat c l s) : Conforms c l s :=
  ⟨fun _ _ ha hn => absurd (h.1 ha) hn, h.2.1, h.2.2.1, h.2.2.2.1, h.2.2.2.2.1, h.2.2.2.2.2.1, h.2.2.2.2.2.2⟩

/-- V-I2C-17: the payload 0x4E856B of a sensor ready at once, its second byte corrupted in its lowest bit. -/
def lifeOf (noise : Nat → Byte) : SensorLife := ⟨fun _ => 0, fun _ => 0x4E856B, noise⟩
/-- The bus after init, a trigger and 50 ms, the sensor's answers to a bare read to come. -/
def pending (b1 : Byte) : State :=
  afterHistory (initialised ++ triggered ++ [.quiet 50]) [ackAnswer, byteAnswer 0x4E, byteAnswer b1, byteAnswer 0x6B]
/-- A bare read uncorrupted, and one with its second byte corrupted. -/
theorem witness_ReadySensorIsReadAndConverted : ∀ p ∈ [(0x85#8, 0x00#8), (0x84#8, 0x01#8)],
    let s := pending p.1
    s.blk.status.isOpen = true ∧ s.partner.holdsScl = false ∧ s.bus.held = false ∧ s.blk.ctrl.addr = 0x40 ∧
    (s.heard sensorDefaults).settled = true ∧ (s.heard sensorDefaults).asked = .result ∧ (s.heard sensorDefaults).conversionOver sensorDefaults = true ∧
    ∃ t, exec (.xferR 3) s = .next t ∧
      ∀ k, k ≤ 5 → Conforms sensorDefaults (lifeOf fun n => if n = 22 then p.2 else 0) (engineRun k t) := by
  intro p hp
  simp only [List.mem_cons, List.not_mem_nil, or_false] at hp
  rcases hp with rfl | rfl <;>
  · refine ⟨by decide, by decide, by decide, by decide, by decide, by decide, by decide, _, rfl,
      fun k hk => conforms_of_decided ?_⟩
    unfold AnswersAtItsAddress UserRegisterReset NotReadyIsNacked LatencyBounded ReadyIsAcked ResultFormat
    interval_cases k <;> refine ⟨?_, ?_, ?_, ?_, ?_, ?_, ?_⟩ <;> decide +kernel
/-- The bytes of that read: the check of the corrupted ones fails. -/
theorem witness_ReadySensorIsReadAndConverted_check :
    (pending 0x85).place + 3 = 22 ∧ crcOk (0x4E856B ^^^ payload 0 1 0) = false := by decide +kernel

/-- The bus after a soft reset and 15 ms, or after init, the sensor's answers to RDUSER to come. -/
def toReadUser (tr : List BusEvent) : State := afterHistory tr [ackAnswer, ackAnswer, ackAnswer, byteAnswer 0x02]
/-- What both cases share. -/
theorem witness_ResetSensorGivesItsUserRegister : ∀ tr ∈ [softReset ++ [.quiet 15], initialised],
    let s := toReadUser tr
    s.blk.status.isOpen = true ∧ s.partner.holdsScl = false ∧ s.bus.held = false ∧ s.blk.ctrl.addr = 0x40 ∧
    sensorDefaults.readUser ∉ [sensorDefaults.softReset, sensorDefaults.trigT, sensorDefaults.trigRH] ∧
    (s.heard sensorDefaults).known = true ∧ (s.heard sensorDefaults).inResetWindow = false ∧
    (s.heard sensorDefaults).mayConvert sensorDefaults = false := by decide
/-- Before init has succeeded, the ACKs as drawn. -/
theorem witness_ResetSensorGivesItsUserRegister_init :
    ∃ t, exec (.xferWR sensorDefaults.readUser 1) (toReadUser (softReset ++ [.quiet 15])) = .next t ∧
      ∀ k, k ≤ 6 → UserRegisterReset sensorDefaults (lifeOf fun _ => 0) (engineRun k t) ∧
        ((engineRun k t).blk.eng.step = .addr ∨ (engineRun k t).blk.eng.step = .wdata →
          (engineRun k t).answer.ack = .ack ∧ (engineRun k t).answer.arb = false) := by
  refine ⟨_, rfl, fun k hk => ?_⟩
  unfold UserRegisterReset
  interval_cases k <;> refine ⟨?_, ?_⟩ <;> decide +kernel
/-- After init, by the premises. -/
theorem witness_ResetSensorGivesItsUserRegister_settled :
    ((toReadUser initialised).heard sensorDefaults).settled = true ∧
    ∃ t, exec (.xferWR sensorDefaults.readUser 1) (toReadUser initialised) = .next t ∧
      ∀ k, k ≤ 6 → Conforms sensorDefaults (lifeOf fun _ => 0) (engineRun k t) ∧
        TakesItsCommands sensorDefaults (engineRun k t) := by
  refine ⟨by decide, _, rfl, fun k hk => ⟨conforms_of_decided ?_, ?_⟩⟩
  · unfold AnswersAtItsAddress UserRegisterReset NotReadyIsNacked LatencyBounded ReadyIsAcked ResultFormat
    interval_cases k <;> refine ⟨?_, ?_, ?_, ?_, ?_, ?_, ?_⟩ <;> decide +kernel
  · unfold TakesItsCommands
    interval_cases k <;> decide +kernel

/-- A device that is absent: address 0x41, its one address byte NACKed. -/
def absent : State := answering [nackAnswer] 0 0x41 opened
theorem witness_AbsentDeviceFailsTheCommand : absent.blk.status.isOpen = true ∧ absent.partner.holdsScl = false ∧
    absent.bus.held = false ∧ absent.blk.ctrl.addr ≠ 0x40 ∧ (absent.heard sensorDefaults).inResetWindow = false ∧
    (absent.heard sensorDefaults).cut = false ∧
    ∃ t, exec (.xferW 0xFE) absent = .next t ∧ ∀ k, AbsentIsNacked sensorDefaults (engineRun k t) := by
  refine ⟨by decide, by decide, by decide, by decide, by decide, by decide, _, rfl, fun k => ?_⟩
  have hend : ∀ j, engineRun j (engineRun 3 (absent.launchBus 0x3 0xFE 0)) = engineRun 3 (absent.launchBus 0x3 0xFE 0) := by
    intro j
    induction j with
    | zero => rfl
    | succ j ih => rw [engineRun, engineStep_disabled (by decide), ih]
  match k with
  | 0 => intro _ _ h; exact absurd h (by decide)
  | 1 => intro _ _ _ _; decide
  | 2 => intro _ _ h; exact absurd h (by decide)
  | j + 3 =>
    intro _ _ h
    rw [show j + 3 = 3 + j by omega, engineRun_add, hend] at h
    exact absurd h (by decide)

theorem witness_EveryStepKeepsTheInvariant : atSuccess.Inv ∧ ∃ t, step atSuccess = .next t :=
  ⟨atSuccess_inv, ⟨_, next_of_isNext (by decide)⟩⟩

end Sys2Proof.Tests
end

section
/-! PROOFS. What a step does when a turn is listed, and the partner's own moves (00_scope.md R8). -/

namespace Sys2Proof.Machine

/-- A listed turn is the step, in the state with that turn taken off (R8). -/
theorem step_of_turns_cons {s : State} {turn : Turn} {rest : List Turn} (h : s.turns = turn :: rest) :
    step s = runTurn turn { s with turns := rest } := by
  simp only [step, takeTurn, h]

/-- A partner's turn is its move, whatever the block and the host are doing: a partner's step cannot fault. -/
theorem step_of_partner_turn {s : State} {p : PartnerAct} {rest : List Turn} (h : s.turns = .partner p :: rest) :
    step s = .next (partnerStep p { s with turns := rest }) := step_of_turns_cons h

/-- Settles O55: each move is `partnerStep` at the turn taken off, and a ready answer is used first come, first served. -/
theorem partnerMovesOnlyItself : Obligations.PartnerMovesOnlyItself := by
  intro s rest
  refine ⟨fun hold => ?_, fun release => ?_, fun a more => ?_, fun a as ready => ?_⟩
  · exact step_of_partner_turn hold
  · exact step_of_partner_turn release
  · exact step_of_partner_turn more
  · exact ⟨s.answer_of_cons ready, s.useAnswer_answers_of_cons ready⟩

end Sys2Proof.Machine
end

section
/-! PROOFS. Every symbol but the last leaves the engine at a place of the script of R105, with the address and the retry
budget it latched. -/

namespace Sys2Proof.Machine

/-- `e'` goes on with the command `e` runs: the address and the budget as latched, a place of the script, its first
symbol produced (R102, R105). -/
structure Eng.GoesOn (e e' : Eng) : Prop where
  addr : e'.addr = e.addr
  retry : e'.retry = e.retry
  placed : e'.placed
  begun : ¬ e'.atBegin

/-- A received byte goes to the place `eng.idx` names, and nothing else changes. -/
theorem Eng.receive_eq (e : Eng) (r : Byte) :
    e.receive r = { e with
      rx0 := if e.idx = 0 then r else e.rx0
      rx1 := if e.idx = 1 then r else e.rx1
      rx2 := if e.idx = 2 then r else e.rx2 } := by
  unfold Eng.receive
  split_ifs <;> simp_all

/-- A read segment is the command's last. -/
theorem hasNextSegment_of_read {op : BitVec 4} {seg : BitVec 1} (h : isReadSegment op seg = true) :
    hasNextSegment op seg = false := by
  revert op seg; decide

/-- A segment with another after it is the first of XFER.WR. -/
theorem hasNextSegment_iff {op : BitVec 4} {seg : BitVec 1} :
    hasNextSegment op seg = true ↔ op = 0x4 ∧ seg = 0 := by
  simp [hasNextSegment]

section
variable {e : Eng} (hp : e.placed)
include hp

/-- A START leads to the address byte, with a full budget where it opens a segment (R110). -/
theorem Eng.goesOn_start (hs : e.step = .start) :
    e.GoesOn { e with left := if e.why = .segment then e.retry else e.left, step := .addr } := by
  obtain ⟨hops, hseg, hat⟩ := hp
  simp only [hs] at hat
  refine ⟨rfl, rfl, ⟨hops, hseg, ?_⟩, by simp [Eng.atBegin]⟩
  rcases hat with hw | ⟨hw, hl⟩
  · simp [hw]
  · simp [hw, hl.le]

/-- An ACKed address byte leads to the segment's bytes (R105). -/
theorem Eng.goesOn_dataPhase : e.GoesOn e.dataPhase := by
  obtain ⟨hops, hseg, -⟩ := hp
  unfold Eng.dataPhase
  split_ifs with hr hn
  · exact ⟨rfl, rfl, ⟨hops, hseg, .inl ⟨rfl, hasNextSegment_of_read hr⟩⟩, by simp [Eng.atBegin]⟩
  · have hpos : 0 < e.rlen.toNat := Nat.pos_of_ne_zero fun h => hn (BitVec.eq_of_toNat_eq h)
    exact ⟨rfl, rfl, ⟨hops, hseg, hr, hpos⟩, by simp [Eng.atBegin]⟩
  · exact ⟨rfl, rfl, ⟨hops, hseg, by simpa using hr⟩, by simp [Eng.atBegin]⟩

/-- A NACKed address byte leads to a repeated START with one retry fewer, or to the STOP of IOCODE 1 (R108). -/
theorem Eng.goesOn_addressNacked (hs : e.step = .addr) : e.GoesOn e.addressNacked := by
  obtain ⟨hops, hseg, hat⟩ := hp
  simp only [hs] at hat
  unfold Eng.addressNacked
  split_ifs with hl
  · exact ⟨rfl, rfl, ⟨hops, hseg, .inr (.inl rfl)⟩, by simp [Eng.atBegin]⟩
  · have hlt : (e.left - 1).toNat < e.retry.toNat := by
      have hle := hat.2
      bv_omega
    exact ⟨rfl, rfl, ⟨hops, hseg, .inr ⟨rfl, hlt⟩⟩, by simp [Eng.atBegin]⟩

/-- An ACKed write byte leads to the next segment's START, or to the STOP of success (R105). -/
theorem Eng.goesOn_segmentDone : e.GoesOn e.segmentDone := by
  obtain ⟨hops, hseg, -⟩ := hp
  unfold Eng.segmentDone
  split_ifs with hn
  · exact ⟨rfl, rfl, ⟨hops, fun _ => (hasNextSegment_iff.mp hn).1, .inl rfl⟩, by simp [Eng.atBegin]⟩
  · exact ⟨rfl, rfl, ⟨hops, hseg, .inl ⟨rfl, by simpa using hn⟩⟩, by simp [Eng.atBegin]⟩

/-- A NACKed write byte leads to the STOP of IOCODE 2 (R109). -/
theorem Eng.goesOn_dataNack (hs : e.step = .wdata) : e.GoesOn { e with step := .stop, why := .dataNack } := by
  obtain ⟨hops, hseg, hat⟩ := hp
  simp only [hs] at hat
  exact ⟨rfl, rfl, ⟨hops, hseg, .inr (.inr ⟨rfl, hat⟩)⟩, by simp [Eng.atBegin]⟩

/-- A received byte leads to the next byte, or to the STOP of success (R105). -/
theorem Eng.goesOn_byteDone (hs : e.step = .rdata) (r : Byte) : e.GoesOn (e.byteDone r) := by
  obtain ⟨hops, hseg, hat⟩ := hp
  simp only [hs] at hat
  obtain ⟨hr, -⟩ := hat
  simp only [Eng.byteDone, Eng.receive_eq]
  by_cases hlt : e.idx.toNat + 1 < e.rlen.toNat
  · rw [if_pos hlt]
    have hlt' : (e.idx + 1).toNat < e.rlen.toNat := by bv_omega
    refine ⟨rfl, rfl, ⟨hops, hseg, ?_⟩, by simp [Eng.atBegin, hs]⟩
    simp only [hs]
    exact ⟨hr, hlt'⟩
  · rw [if_neg hlt]
    exact ⟨rfl, rfl, ⟨hops, hseg, .inl ⟨rfl, hasNextSegment_of_read hr⟩⟩, by simp [Eng.atBegin]⟩

end

/-- A symbol that leaves the command running goes on with it. -/
theorem engineSymbol_goesOn {s : State} (hp : s.blk.eng.placed) (hrun : s.engineSymbol.blk.eng.phase = .run) :
    s.blk.eng.GoesOn s.engineSymbol.blk.eng := by
  revert hrun
  unfold State.engineSymbol
  split
  case h_1 hs => exact fun _ => Eng.goesOn_start hp hs
  case h_2 hs =>
    unfold State.engineAddr
    split
    · simp [State.loseArbitration]
    · exact fun _ => Eng.goesOn_dataPhase hp
    · exact fun _ => Eng.goesOn_addressNacked hp hs
  case h_3 hs =>
    unfold State.engineWdata
    split
    · simp [State.loseArbitration]
    · exact fun _ => Eng.goesOn_segmentDone hp
    · exact fun _ => Eng.goesOn_dataNack hp hs
  case h_4 hs =>
    unfold State.engineRdata
    split
    · simp [State.loseArbitration]
    · exact fun _ => Eng.goesOn_byteDone hp hs _
  case h_5 hs =>
    unfold State.engineStop
    split <;> simp

/-- A placed engine stays placed while its command runs (R105). -/
theorem engineStep_placed {s : State} (hp : s.blk.eng.phase = .run → s.blk.eng.placed)
    (hrun : (engineStep s).blk.eng.phase = .run) : (engineStep s).blk.eng.placed := by
  cases he : s.engineEnabled with
  | false => rw [engineStep_disabled he] at hrun ⊢; exact hp hrun
  | true =>
    rw [engineStep_enabled he] at hrun ⊢
    exact (engineSymbol_goesOn (hp ((engineEnabled_iff s).mp he).1) hrun).placed

end Sys2Proof.Machine
end

section
/-! PROOFS. The invariant of every run: it holds of a block at rest and of one whose engine goes on, and so of whatever a
step leaves (10_state.md R24, R31; 40_i2c_engine.md R105, R107, R113; 43_control.md R172). -/

namespace Sys2Proof.Machine

/-- What a completion or a reset leaves of the block: no command runs, and what it shows is legal (R172, R211, R219). -/
structure Block.AtRest (arbPossible : Bool) (b : Block) : Prop where
  idle : b.eng.phase = .idle
  notBusy : b.status.busy = false
  outcome : outcomeLegal arbPossible b.status.err b.status.iocode
  delivered : b.status.nbytes ≠ 0 → b.status.err = 0
  results : b.resultsWhole

theorem Block.reset_atRest (arbPossible : Bool) : Block.reset.AtRest arbPossible :=
  ⟨rfl, rfl, .inl ⟨rfl, rfl⟩, fun _ => rfl, .inl ⟨rfl, rfl, rfl⟩⟩

/-- A completion brings the block to rest (R172). -/
theorem Block.complete_atRest {arbPossible : Bool} {b : Block} {err io : BitVec 4}
    (hout : outcomeLegal arbPossible err io) (hdel : b.status.nbytes ≠ 0 → err = 0) (hres : b.resultsWhole) :
    (b.complete err io).AtRest arbPossible :=
  ⟨rfl, rfl, hout, hdel, hres⟩

/-- The raw count's two status bits are masked off (R152). -/
theorem rawOf_masked (d : BitVec 24) : rawOf d &&& 3 = 0 := by
  rw [rawOf, decodeRaw, BitVec.and_assoc]
  exact BitVec.and_zero

/-- A conversion writes the three results together (R29, R153). -/
theorem Block.convert_resultsWhole {b : Block} {k1 k2 : BitVec 64}
    (hk : (k1 = kT1 ∧ k2 = kT2) ∨ (k1 = kH1 ∧ k2 = kH2)) : (b.convert k1 k2).resultsWhole := by
  refine .inr ⟨rawOf_masked b.data, ?_⟩
  rcases hk with ⟨rfl, rfl⟩ | ⟨rfl, rfl⟩
  · exact .inl ⟨rfl, rfl⟩
  · exact .inr ⟨rfl, rfl⟩

/-- A well-formed command's launch starts the engine, on an open bus and with operands that are legal, or brings the block
to rest (R102, R170). -/
theorem Block.commanded_starts_or_rests {i : Instr} {b b' : Block} (arbPossible : Bool) (hwf : i.wf = true)
    (hn : b.status.nbytes = 0) (hres : b.resultsWhole) (h : Block.commanded i b b') :
    (b.status.isOpen = true ∧ ∃ op wb n, b' = b.startEngine op wb n ∧ b'.eng.operandsLegal) ∨
      b'.AtRest arbPossible := by
  have hdel (err : BitVec 4) : b.status.nbytes ≠ 0 → err = 0 := fun hne => absurd hn hne
  have hok : outcomeLegal arbPossible 0 0 := .inl ⟨rfl, rfl⟩
  have hbadCrc : outcomeLegal arbPossible 5 0 := .inr (.inr ⟨.inl rfl, rfl⟩)
  have hclosed : outcomeLegal arbPossible 6 0 := .inr (.inr ⟨.inr (.inl rfl), rfl⟩)
  cases i with
  | nop | busOpen | crcChk | clrstat => subst h; exact .inr ⟨rfl, rfl, hok, hdel 0, hres⟩
  | busClose =>
    rcases h with ⟨-, rfl⟩ | ⟨-, rfl⟩
    · exact .inr ⟨rfl, rfl, hok, hdel 0, hres⟩
    · exact .inr (complete_atRest hclosed (hdel 6) hres)
  | xferW wb =>
    rcases h with ⟨ho, rfl⟩ | ⟨-, rfl⟩
    · exact .inl ⟨ho, _, _, _, rfl, .inl ⟨rfl, rfl⟩⟩
    · exact .inr (complete_atRest hclosed (hdel 6) hres)
  | xferWR wb n =>
    rcases h with ⟨ho, rfl⟩ | ⟨-, rfl⟩
    · exact .inl ⟨ho, _, _, _, rfl, .inr (.inl ⟨rfl, by simpa [Instr.wf] using hwf⟩)⟩
    · exact .inr (complete_atRest hclosed (hdel 6) hres)
  | xferR n =>
    rcases h with ⟨ho, rfl⟩ | ⟨-, rfl⟩
    · exact .inl ⟨ho, _, _, _, rfl, .inr (.inr ⟨rfl, by simpa [Instr.wf] using hwf, rfl⟩)⟩
    · exact .inr (complete_atRest hclosed (hdel 6) hres)
  | convT =>
    rcases h with ⟨-, rfl⟩ | ⟨-, rfl⟩
    · exact .inr (complete_atRest hok (hdel 0) (convert_resultsWhole (.inl ⟨rfl, rfl⟩)))
    · exact .inr (complete_atRest hbadCrc (hdel 5) hres)
  | convRH =>
    rcases h with ⟨-, rfl⟩ | ⟨-, rfl⟩
    · exact .inr (complete_atRest hok (hdel 0) (convert_resultsWhole (.inr ⟨rfl, rfl⟩)))
    · exact .inr (complete_atRest hbadCrc (hdel 5) hres)

/-- A block at rest with the lines released. -/
theorem State.Inv.of_atRest {t : State} (hb : t.blk.AtRest t.cfg.arbPossible) (hheld : t.bus.held = false)
    (hvars : varsCanonical t.host.vars) : t.Inv where
  busyRuns := by simp [hb.idle, hb.notBusy]
  runClear := by simp [hb.idle]
  runOpen := by simp [hb.idle]
  runLatched := by simp [hb.idle]
  runPlaced := by simp [hb.idle]
  holdsBus := by simp [hb.idle, hheld]
  outcome := hb.outcome
  delivered := hb.delivered
  results := hb.results
  hostVars := hvars

section
variable {s t : State} (h : s.Inv)
include h

/-- The invariant reads the parameters, the block, the hold on the lines and the host's variables only. -/
theorem State.Inv.of_same (hcfg : t.cfg = s.cfg) (hblk : t.blk = s.blk) (hheld : t.bus.held = s.bus.held)
    (hvars : varsCanonical t.host.vars) : t.Inv := by
  obtain ⟨h1, h2, h3, h4, h5, h6, h7, h8, h9, -⟩ := h
  constructor
  case hostVars => exact hvars
  all_goals
    simp only [hcfg, hblk, hheld]
    assumption

/-- While BUSY = 0 the engine is idle and the lines are released (R31, R107). -/
theorem State.Inv.idle_of_not_busy (hb : s.blk.status.busy = false) :
    s.blk.eng.phase = .idle ∧ s.bus.held = false := by
  have hp : s.blk.eng.phase ≠ .run := fun hr => by simp [h.busyRuns.mpr hr] at hb
  refine ⟨?_, by simpa [hp] using h.holdsBus⟩
  cases hph : s.blk.eng.phase
  · rfl
  · exact absurd hph hp

/-- A symbol keeps the invariant: the command goes on, or the block comes to rest with the lines released. -/
theorem State.Inv.engineSymbol (hrun : s.blk.eng.phase = .run) : s.engineSymbol.Inv := by
  obtain ⟨hcfg, hhost, -, -⟩ := engineSymbol_frame s
  obtain ⟨hdone, herr, hio, hnb⟩ := h.runClear hrun
  have hvars : varsCanonical s.engineSymbol.host.vars := hhost ▸ h.hostVars
  have hfail (io : BitVec 4) (hlegal : outcomeLegal s.cfg.arbPossible 3 io) :
      (s.blk.complete 3 io).AtRest s.engineSymbol.cfg.arbPossible :=
    hcfg ▸ Block.complete_atRest hlegal (fun hne => absurd hnb hne) h.results
  rcases engineSymbol_cases s with ⟨e, y, hblk, hph, hbus, -⟩ | ⟨y, hblk, harb, hbus, -⟩ |
    ⟨-, hbus, ⟨-, hblk⟩ | ⟨-, hblk⟩ | ⟨-, -, hblk⟩⟩
  · have heng : s.engineSymbol.blk.eng = e := by rw [hblk]
    have hrun' : e.phase = .run := hph.trans hrun
    have hgo : s.blk.eng.GoesOn e := by
      rw [← heng]
      exact engineSymbol_goesOn (h.runPlaced hrun) (by rw [heng]; exact hrun')
    obtain ⟨haddr, hretry⟩ := h.runLatched hrun
    constructor
    case outcome => rw [hcfg, hblk]; exact h.outcome
    case hostVars => exact hvars
    all_goals rw [hblk]
    case busyRuns => simpa only [hrun', hrun] using h.busyRuns
    case runClear => exact fun _ => h.runClear hrun
    case runOpen => exact fun _ => h.runOpen hrun
    case runLatched => exact fun _ => ⟨hgo.addr.trans haddr, hgo.retry.trans hretry⟩
    case runPlaced => exact fun _ => hgo.placed
    case holdsBus => simp [hbus, hrun', hgo.begun]
    case delivered => exact h.delivered
    case results => exact h.results
  · exact .of_atRest (hblk ▸ hfail 3 (.inr (.inl ⟨rfl, .inr (.inr ⟨rfl, harb⟩)⟩))) (by rw [hbus]) hvars
  · exact .of_atRest (hblk ▸ hfail 1 (.inr (.inl ⟨rfl, .inl rfl⟩))) (by rw [hbus]) hvars
  · exact .of_atRest (hblk ▸ hfail 2 (.inr (.inl ⟨rfl, .inr (.inl rfl)⟩))) (by rw [hbus]) hvars
  · have hres : s.blk.deliver.resultsWhole := by simpa [Block.resultsWhole] using h.results
    exact .of_atRest (hblk ▸ Block.complete_atRest (.inl ⟨rfl, rfl⟩) (fun _ => rfl) hres) (by rw [hbus]) hvars

/-- An engine step keeps the invariant. -/
theorem State.Inv.engineStep : (engineStep s).Inv := by
  cases he : s.engineEnabled with
  | false => rw [engineStep_disabled he]; exact h
  | true => rw [engineStep_enabled he]; exact h.engineSymbol ((engineEnabled_iff s).mp he).1

/-- A write that finds a command running sets OVR, which the invariant does not read (R171). -/
theorem State.Inv.overrun : State.Inv { s with blk := s.blk.overrun } := by
  obtain ⟨h1, h2, h3, h4, h5, h6, h7, h8, h9, h10⟩ := h
  exact ⟨h1, h2, h3, h4, h5, h6, h7, h8, h9, h10⟩

/-- A launch keeps the invariant: the engine stands before its first symbol, or the block comes to rest (R170). -/
theorem State.Inv.launch {v : Word} (hb : s.blk.status.busy = false) (hl : launch v s = .next t) : t.Inv := by
  obtain ⟨-, hheld⟩ := h.idle_of_not_busy hb
  obtain ⟨ht, hcmd⟩ := launch_blk hl
  have hcfg : t.cfg = s.cfg := by rw [ht]
  have hheld' : t.bus.held = false := by rw [ht]; exact hheld
  have hvars : varsCanonical t.host.vars := by rw [ht]; exact h.hostVars
  rcases hcmd with ⟨why, -, hblk⟩ | ⟨i, hi, hc⟩
  · refine .of_atRest (hblk ▸ Block.complete_atRest ?_ (fun hne => absurd rfl hne) h.results) hheld' hvars
    exact .inr (.inr ⟨.inr (.inr rfl), rfl⟩)
  rcases Block.commanded_starts_or_rests (b := s.blk.launched v) t.cfg.arbPossible (decode_ok_wf hi) rfl h.results hc with
    ⟨hopen, op, wb, n, hblk, hops⟩ | hrest
  · have hops' : ((s.blk.launched v).startEngine op wb n).eng.operandsLegal := hblk ▸ hops
    constructor
    case hostVars => exact hvars
    all_goals rw [hblk]
    case busyRuns => simp
    case runClear => simp
    case runOpen => exact fun _ => hopen
    case runLatched => simp
    case runPlaced => exact fun _ => ⟨hops', by simp, .inl rfl⟩
    case holdsBus => simp [hheld', Eng.atBegin]
    case outcome => exact .inl ⟨rfl, rfl⟩
    case delivered => simp
    case results => exact h.results
  · exact .of_atRest hrest hheld' hvars

/-- A host write keeps the invariant, whatever the register and the word. -/
theorem State.Inv.hostWrite {r : Reg} {v : Word} (hw : hostWrite r v s = .next t) : t.Inv := by
  rcases hostWrite_cases hw with rfl | ⟨-, rfl⟩ | ⟨hb, hcase⟩
  · exact h
  · exact h.overrun
  obtain ⟨hidle, hfree⟩ := h.idle_of_not_busy hb
  rcases hcase with ⟨-, rfl⟩ | rfl | ⟨-, hl⟩
  · exact .of_atRest ⟨hidle, hb, h.outcome, h.delivered, h.results⟩ hfree h.hostVars
  · exact .of_atRest ⟨hidle, hb, h.outcome, h.delivered, h.results⟩ hfree h.hostVars
  · exact h.launch hb hl

/-- A move of the host that leaves the block alone keeps the invariant: its variables stay in their one form. -/
theorem State.Inv.hostOwn (ho : HostOwn s t) : t.Inv := by
  refine h.of_same ho.cfg ho.blk ho.held ?_
  rcases ho.vars with hv | ⟨x, v, hv⟩ <;> rw [hv]
  · exact h.hostVars
  · exact setVar_canonical h.hostVars x v

end

/-- Settles O60, by what a step can do: each kind of move keeps the invariant. -/
theorem everyStepKeepsTheInvariant : Obligations.EveryStepKeepsTheInvariant := by
  intro s t h hstep
  have hturn : s.turnTaken.Inv := h.of_same rfl rfl rfl h.hostVars
  rcases step_cases hstep with ⟨rest, -, rfl⟩ | ⟨p, rfl⟩ | rfl | hown | ⟨off, r, v, pc, -, -, hw⟩
  · exact .of_atRest (Block.reset_atRest _) rfl h.hostVars
  · cases p <;> exact h.of_same rfl rfl rfl h.hostVars
  · exact hturn.engineStep
  · exact hturn.hostOwn hown
  · exact (hturn.of_same (t := s.turnTaken.setHostPc pc) rfl rfl rfl h.hostVars).hostWrite hw

end Sys2Proof.Machine
end

section
/-! PROOFS. A legal word is the encoding of the command it decodes to (30_encoding.md R70, R74, R80). -/

namespace Sys2Proof

/-- A word is made of its five fields (R70). -/
theorem word_eq_fields (v : Word) :
    v = (rsv2Field v ++ rlenField v ++ wbyteField v ++ rsv1Field v ++ opField v : BitVec (14 + 2 + 8 + 4 + 4)) := by
  simp only [rsv2Field, rlenField, wbyteField, rsv1Field, opField]
  rw [BitVec.extractLsb'_append_extractLsb'_eq_extractLsb' (by rfl),
    BitVec.extractLsb'_append_extractLsb'_eq_extractLsb' (by rfl),
    BitVec.extractLsb'_append_extractLsb'_eq_extractLsb' (by rfl),
    BitVec.extractLsb'_append_extractLsb'_eq_extractLsb' (by rfl)]
  exact BitVec.extractLsb'_eq_self.symm

/-- The word of given fields, its reserved ones 0, put together by shifts as `enc` of R80 does. -/
theorem append_fields_eq_or (n : BitVec 2) (wb : Byte) (op : BitVec 4) :
    ((0#14 ++ n ++ wb ++ 0#4 ++ op : BitVec (14 + 2 + 8 + 4 + 4)) : Word) =
      (n.setWidth 32 <<< 16) ||| (wb.setWidth 32 <<< 8) ||| op.setWidth 32 := by
  apply BitVec.eq_of_getLsbD_eq
  intro k hk
  simp only [BitVec.getLsbD_append, BitVec.getLsbD_or, BitVec.getLsbD_shiftLeft, BitVec.getLsbD_setWidth]
  interval_cases k <;> simp

/-- A legal word is the encoding of its command. -/
theorem encode_of_decode_ok {v : Word} {i : Instr} (h : decode v = .ok i) : encode i = v := by
  obtain ⟨hr1, hr2, hc⟩ := decode_ok_cases h
  have hv : v = (rlenField v).setWidth 32 <<< 16 ||| (wbyteField v).setWidth 32 <<< 8 ||| (opField v).setWidth 32 := by
    have hf := word_eq_fields v
    rw [hr1, hr2] at hf
    exact hf.trans (append_fields_eq_or ..)
  conv_rhs => rw [hv]
  clear hv
  rcases hc with ⟨ho, hb, hn, rfl⟩ | ⟨ho, hb, hn, rfl⟩ | ⟨ho, hb, hn, rfl⟩ | ⟨ho, hn, rfl⟩ | ⟨ho, -, rfl⟩ |
    ⟨ho, hb, -, rfl⟩ | ⟨ho, hb, hn, rfl⟩ | ⟨ho, hb, hn, rfl⟩ | ⟨ho, hb, hn, rfl⟩ | ⟨ho, hb, hn, rfl⟩ <;>
    simp [encode, *]

end Sys2Proof
end

section
/-! PROOFS. Who changes OPEN, CTRL and the results: what the engine and a command's launch leave of them (10_state.md R23,
R25, R28, R29). -/

namespace Sys2Proof.Machine

/-- The engine writes neither OPEN nor CTRL nor the results (R56, R172). -/
theorem engineStep_registers (s : State) :
    (engineStep s).blk.status.isOpen = s.blk.status.isOpen ∧ (engineStep s).blk.ctrl = s.blk.ctrl ∧
      (engineStep s).blk.raw = s.blk.raw ∧ (engineStep s).blk.res64 = s.blk.res64 ∧
      (engineStep s).blk.res32 = s.blk.res32 := by
  cases he : s.engineEnabled with
  | false => simp [engineStep_disabled he]
  | true =>
    rw [engineStep_enabled he]
    rcases engineSymbol_cases s with ⟨e, y, hblk, -⟩ | ⟨y, hblk, -⟩ | ⟨-, -, ⟨-, hblk⟩ | ⟨-, hblk⟩ | ⟨-, -, hblk⟩⟩ <;>
      simp [hblk]

/-- A command's launch writes OPEN only where it is OPEN or CLOSE (R100, R101). -/
theorem Block.commanded_isOpen {i : Instr} {b b' : Block} (h : Block.commanded i b b') :
    b'.status.isOpen = b.status.isOpen ∨ (i = .busOpen ∧ b'.status.isOpen = true) ∨
      (i = .busClose ∧ b'.status.isOpen = false) := by
  cases i with
  | busOpen => subst h; exact .inr (.inl ⟨rfl, rfl⟩)
  | nop | crcChk | clrstat => subst h; exact .inl rfl
  | busClose =>
    rcases h with ⟨-, rfl⟩ | ⟨-, rfl⟩
    · exact .inr (.inr ⟨rfl, rfl⟩)
    · exact .inl rfl
  | xferW | xferWR | xferR | convT | convRH => rcases h with ⟨-, rfl⟩ | ⟨-, rfl⟩ <;> exact .inl rfl

/-- A command's launch writes the results only where it is a conversion of a valid payload, and then all three (R29). -/
theorem Block.commanded_results {i : Instr} {b b' : Block} (h : Block.commanded i b b') :
    (b'.raw = b.raw ∧ b'.res64 = b.res64 ∧ b'.res32 = b.res32) ∨
      (crcOk b.data = true ∧ b'.raw = rawOf b.data ∧
        ((i = .convT ∧ b'.res64 = measure64 b'.raw kT1 kT2 ∧ b'.res32 = measure32 b'.raw kT1 kT2) ∨
          (i = .convRH ∧ b'.res64 = measure64 b'.raw kH1 kH2 ∧ b'.res32 = measure32 b'.raw kH1 kH2))) := by
  cases i with
  | nop | busOpen | crcChk | clrstat => subst h; exact .inl ⟨rfl, rfl, rfl⟩
  | busClose | xferW | xferWR | xferR => rcases h with ⟨-, rfl⟩ | ⟨-, rfl⟩ <;> exact .inl ⟨rfl, rfl, rfl⟩
  | convT =>
    rcases h with ⟨hok, rfl⟩ | ⟨-, rfl⟩
    · exact .inr ⟨hok, rfl, .inl ⟨rfl, rfl, rfl⟩⟩
    · exact .inl ⟨rfl, rfl, rfl⟩
  | convRH =>
    rcases h with ⟨hok, rfl⟩ | ⟨-, rfl⟩
    · exact .inr ⟨hok, rfl, .inr ⟨rfl, rfl, rfl⟩⟩
    · exact .inl ⟨rfl, rfl, rfl⟩

/-- Settles O32: of all a step can do, only a launch of OPEN or CLOSE and reset write the flag. -/
theorem onlyOpenCloseAndResetChangeOpen : Obligations.OnlyOpenCloseAndResetChangeOpen := by
  intro s t hstep hne
  rcases step_blk_cases hstep with ⟨rest, hr, -⟩ | hblk | hblk | ⟨-, hblk⟩ | ⟨-, -, v, hblk⟩ | ⟨-, v, hblk⟩ |
    ⟨v, s₀, hl, hs₀, hlaunch⟩
  · exact .inl ⟨rest, hr⟩
  · exact absurd (hblk ▸ (engineStep_registers s.turnTaken).1) hne
  iterate 4 exact absurd (by simp [hblk]) hne
  rcases (launch_blk hlaunch).2 with ⟨why, -, hblk⟩ | ⟨i, hi, hc⟩
  · exact absurd (by rw [hblk, hs₀]; rfl) hne
  obtain rfl := encode_of_decode_ok hi
  rcases Block.commanded_isOpen hc with hsame | ⟨rfl, ho⟩ | ⟨rfl, ho⟩
  · exact absurd (hsame.trans (by rw [hs₀]; rfl)) hne
  · exact .inr (.inl ⟨hl, ho⟩)
  · exact .inr (.inr ⟨hl, ho⟩)

/-- Settles O33: only a host write while the bus is closed and no command runs, and reset, write CTRL. -/
theorem ctrlIsImmutableWhileOpen : Obligations.CtrlIsImmutableWhileOpen := by
  intro s t hstep hlocked hnr
  rcases step_blk_cases hstep with ⟨rest, hr, -⟩ | hblk | hblk | ⟨-, hblk⟩ | ⟨hb, ho, -⟩ | ⟨-, v, hblk⟩ |
    ⟨v, s₀, -, hs₀, hlaunch⟩
  · exact absurd hr (hnr rest)
  · exact hblk ▸ (engineStep_registers s.turnTaken).2.1
  · rw [hblk]
  · rw [hblk]; rfl
  · simp [hb, ho] at hlocked
  · rw [hblk]
  · rcases (launch_blk hlaunch).2 with ⟨why, -, hblk⟩ | ⟨i, -, hc⟩
    · rw [hblk, hs₀]; rfl
    · exact (Block.commanded_frame hc).2.1.trans (by rw [hs₀]; rfl)

/-- Settles O34: of all a step can do, only a conversion's launch on a valid payload and reset write the results. -/
theorem resultsAreWrittenOnlyByConv : Obligations.ResultsAreWrittenOnlyByConv := by
  intro s t hstep hne
  have hsame : ¬ (t.blk.raw = s.blk.raw ∧ t.blk.res64 = s.blk.res64 ∧ t.blk.res32 = s.blk.res32) := by
    rintro ⟨h1, h2, h3⟩
    simp [h1, h2, h3] at hne
  rcases step_blk_cases hstep with ⟨rest, hr, -⟩ | hblk | hblk | ⟨-, hblk⟩ | ⟨-, -, v, hblk⟩ | ⟨-, v, hblk⟩ |
    ⟨v, s₀, hl, hs₀, hlaunch⟩
  · exact .inl ⟨rest, hr⟩
  · exact absurd (hblk ▸ (engineStep_registers s.turnTaken).2.2) hsame
  iterate 4 exact absurd (by simp [hblk]) hsame
  rcases launch_cases hlaunch with ⟨why, -, rfl⟩ | ⟨i, hi, hexec⟩
  · exact absurd (hs₀ ▸ ⟨rfl, rfl, rfl⟩) hsame
  obtain rfl := encode_of_decode_ok hi
  rcases Block.commanded_results (exec_cases hexec).2 with hkept | ⟨hok, hraw, hconv⟩
  · exact absurd (hs₀ ▸ hkept) hsame
  refine .inr ⟨hl.1, hs₀ ▸ hok, hs₀ ▸ hraw, s₀, hs₀, ?_⟩
  rcases hconv with ⟨rfl, hres⟩ | ⟨rfl, hres⟩
  · exact .inl ⟨hl, hexec, hres⟩
  · exact .inr ⟨hl, hexec, hres⟩

end Sys2Proof.Machine
end

section
/-! PROOFS. What a move of the host does while a command runs (10_state.md R32), and the host's writes and reads of CTRL,
DATA and STATUS (R23, R24, R27). -/

namespace Sys2Proof.Machine

/-- A host write that finds a command running sets OVR or does nothing (R51, R171). -/
theorem hostWrite_blk_of_busy {r : Reg} {v : Word} {s t : State} (hb : s.blk.status.busy = true)
    (h : hostWrite r v s = .next t) : t.blk = s.blk ∨ t.blk = s.blk.overrun := by
  rcases hostWrite_cases h with rfl | ⟨-, rfl⟩ | ⟨hnb, -⟩
  · exact .inl rfl
  · exact .inr rfl
  · simp [hb] at hnb

/-- The host's own line, while a command runs. -/
theorem hostStep_blk_of_busy {s t : State} (hb : s.blk.status.busy = true) (h : hostStep s = .next t) :
    t.blk = s.blk ∨ t.blk = s.blk.overrun := by
  rcases hostStep_cases h with ho | ⟨off, r, v, -, -, hw⟩
  · exact .inl ho.blk
  · exact hostWrite_blk_of_busy (s := s.setHostPc (s.host.pc + 1)) hb hw

/-- An access of the host, while a command runs. -/
theorem hostAccess_blk_of_busy {a : Access} {s t : State} (hb : s.blk.status.busy = true)
    (h : hostAccess a s = .next t) : t.blk = s.blk ∨ t.blk = s.blk.overrun := by
  rcases hostAccess_moves h with ho | ⟨off, r, v, -, -, hw⟩
  · exact .inl ho.blk
  · exact hostWrite_blk_of_busy hb hw

/-- With no turn listed and no engine step enabled the host moves (R8). -/
theorem step_of_no_turn {s : State} (hs : s.turns = []) (he : s.engineEnabled = false) : step s = hostStep s := by
  simp [step, takeTurn, hs, idleTurn, he]

/-- Settles O36: the three ways the host moves, each a line or an access that meets BUSY = 1. -/
theorem hostCannotDisturbARunningCommand : Obligations.HostCannotDisturbARunningCommand := by
  intro s t hb hmove hstep
  rcases hmove with ⟨rest, hs⟩ | ⟨a, rest, hs⟩ | ⟨hs, hno⟩
  · rw [step_of_turns_cons hs] at hstep
    exact hostStep_blk_of_busy (s := { s with turns := rest }) hb hstep
  · rw [step_of_turns_cons hs] at hstep
    exact hostAccess_blk_of_busy (s := { s with turns := rest }) hb hstep
  · have he : s.engineEnabled = false := by
      rcases hno with hidle | hscl
      · simp [State.engineEnabled, hidle]
      · simp [State.engineEnabled, hscl]
    rw [step_of_no_turn hs he] at hstep
    exact hostStep_blk_of_busy hb hstep

/-- A host write at a register's offset is the write of that register. -/
theorem hostWriteAt_of_offset {off : Nat} {r : Reg} (h : Reg.ofOffset off = some r) (v : Word) (s : State) :
    hostWriteAt off v s = hostWrite r v s := by
  simp only [hostWriteAt, h]

/-- A host read at a register's offset gives that register's word. -/
theorem hostReadAt_of_offset {off : Nat} {r : Reg} (h : Reg.ofOffset off = some r) (s : State) :
    hostReadAt off s = .next (s.withRead (s.blk.readReg r)) := by
  simp only [hostReadAt, h]

/-- Settles O26: the write by its three branches, the read by CTRL's word. -/
theorem ctrlWritesAndReads : Obligations.CtrlWritesAndReads := by
  refine ⟨fun s v => ?_, fun s => hostReadAt_of_offset (r := .ctrl) rfl s⟩
  rw [hostWriteAt_of_offset (r := .ctrl) rfl, hostWrite, Block.writeCtrl]
  cases s.blk.status.busy with
  | true => rfl
  | false =>
    cases s.blk.status.isOpen with
    | true => rfl
    | false => rfl

/-- What a write of DATA stores, read back: the word's upper byte 0 (R27). -/
theorem setWidth_dataOfWord (v : Word) : (dataOfWord v).setWidth 32 = v &&& 0x00FFFFFF := by
  apply BitVec.eq_of_toNat_eq
  rw [BitVec.toNat_setWidth, dataOfWord, BitVec.extractLsb'_toNat, Nat.shiftRight_zero, BitVec.toNat_and,
    Nat.mod_eq_of_lt (by omega)]
  exact (Nat.and_two_pow_sub_one_eq_mod v.toNat 24).symm

/-- Settles O27: the write at BUSY = 0, the read of the register written, and the layout of its bytes. -/
theorem dataWritesAndReads : Obligations.DataWritesAndReads := by
  intro s v hb
  refine ⟨{ s with blk := { s.blk with data := dataOfWord v } }, _, ?_, rfl, hostReadAt_of_offset (r := .data) rfl _,
    setWidth_dataOfWord v, rfl, ?_, ?_, ?_⟩
  · rw [hostWriteAt_of_offset (r := .data) rfl, hostWrite, Block.writeData, hb]
    rfl
  · ext k hk; simp [byte0, dataOfWord]
  · ext k hk; simp [byte1, dataOfWord]
  · ext k hk; simp [byte2, dataOfWord]

/-- A flag's word shows the flag at its bit and 0 elsewhere. -/
theorem getLsbD_flagAt (f : Bool) (k : Nat) {j : Nat} (hj : j < 32) :
    (flagAt f k).getLsbD j = (decide (j = k) && f) := by
  simp only [flagAt, BitVec.getLsbD_shiftLeft, BitVec.getLsbD_setWidth, BitVec.getLsbD_ofBool, hj]
  rcases lt_trichotomy j k with h | rfl | h
  · simp [h, h.ne]
  · simp
  · simp [h.ne', (Nat.sub_pos_of_lt h).ne']

/-- The bits of STATUS's word, each field shifted to its place (R24). -/
theorem Status.getLsbD_word (t : Status) {j : Nat} (hj : j < 32) :
    t.word.getLsbD j =
      (!decide (j < 16) && t.nbytes.getLsbD (j - 16) || !decide (j < 12) && t.iocode.getLsbD (j - 12) ||
        !decide (j < 8) && t.err.getLsbD (j - 8) || decide (j = 4) && t.ovr || decide (j = 3) && t.crcOk ||
        decide (j = 2) && t.isDone || decide (j = 1) && t.isOpen || decide (j = 0) && t.busy) := by
  have hs (k : Nat) : j - k < 32 := by omega
  simp only [Status.word, BitVec.getLsbD_or, BitVec.getLsbD_shiftLeft, BitVec.getLsbD_setWidth, getLsbD_flagAt _ _ hj,
    hj, hs, decide_true, Bool.true_and]

/-- Settles O30: each bit of the word is the one the layout of R24 puts there. -/
theorem statusReadShowsEveryField : Obligations.StatusReadShowsEveryField := by
  intro s
  refine ⟨_, hostReadAt_of_offset (r := .status) rfl s, ?_⟩
  simp only [State.withRead_host_rdata, Block.readReg]
  refine ⟨?_, ?_, ?_, ?_, ?_, ?_, ?_, ?_, ?_, ?_⟩
  iterate 5
    ext k hk
    rw [BitVec.getElem_extractLsb', Status.getLsbD_word _ (by omega)]
    interval_cases k <;> simp
  all_goals
    rw [Status.getLsbD_word _ (by omega)]
    simp

end Sys2Proof.Machine
end

section
/-! PROOFS. No engine state survives into a command (10_state.md R31, R33): of two engines that differ only in what the
script of R105 writes before it reads, each symbol makes two such engines again, and the rest of the machine is the same. -/

namespace Sys2Proof.Machine

/-- The engine with other values in the variables that a launch does not write (R102). -/
def Eng.withHidden (e : Eng) (left : BitVec 4) (rx0 rx1 rx2 : Byte) : Eng :=
  { e with left := left, rx0 := rx0, rx1 := rx1, rx2 := rx2 }

/-- How many received bytes the engine still holds for `succeed()` (R105, R112). -/
def Eng.received (e : Eng) : Nat :=
  match e.step with
  | .rdata => e.idx.toNat
  | .stop => if e.why = .success ∧ (e.op = 0x4 ∨ e.op = 0x5) then e.rlen.toNat else 0
  | .start | .addr | .wdata => 0

/-- The retry budget counts: the engine is within the address phase of a segment (R108, R110). -/
def Eng.budgetCounts (e : Eng) : Prop := e.step = .addr ∨ (e.step = .start ∧ e.why = .retry)

/-- Two engines that the rest of the command cannot tell apart: they differ only in hidden variables the script writes
before it reads. -/
structure Eng.Alike (e e' : Eng) : Prop where
  hidden : ∃ left rx0 rx1 rx2, e' = e.withHidden left rx0 rx1 rx2
  left : e.budgetCounts → e'.left = e.left
  rx0 : 0 < e.received → e'.rx0 = e.rx0
  rx1 : 1 < e.received → e'.rx1 = e.rx1
  rx2 : 2 < e.received → e'.rx2 = e.rx2

/-- Two machines that differ only in such engines. -/
def State.Alike (s u : State) : Prop := ∃ e', u = s.setEng e' ∧ s.blk.eng.Alike e'

/-- A command whose last segment is a write reads no bytes (R105). -/
theorem not_read_of_last_write {op : BitVec 4} {seg : BitVec 1} (hw : isReadSegment op seg = false)
    (hn : hasNextSegment op seg = false) : ¬ (op = 0x4 ∨ op = 0x5) := by
  revert op seg
  decide

/-- A received byte goes to the place `eng.idx` names, whatever comes next (R105). -/
theorem Eng.byteDone_rx (e : Eng) (r : Byte) :
    (e.byteDone r).rx0 = (if e.idx = 0 then r else e.rx0) ∧ (e.byteDone r).rx1 = (if e.idx = 1 then r else e.rx1) ∧
      (e.byteDone r).rx2 = (if e.idx = 2 then r else e.rx2) := by
  simp only [Eng.byteDone, Eng.receive_eq]
  by_cases hn : e.idx.toNat + 1 < e.rlen.toNat <;> simp only [hn, if_true, if_false, and_self]

/-- A received byte is one more than the engine held, at the most. -/
theorem Eng.received_byteDone_le {e : Eng} (hs : e.step = .rdata) (r : Byte) :
    (e.byteDone r).received ≤ e.idx.toNat + 1 := by
  simp only [Eng.byteDone, Eng.receive_eq]
  by_cases hn : e.idx.toNat + 1 < e.rlen.toNat
  · simp only [hn, if_true, received, hs]
    bv_omega
  · simp only [hn, if_false, received]
    split <;> omega

/-- The budget does not count after a received byte. -/
theorem Eng.not_budgetCounts_byteDone {e : Eng} (hs : e.step = .rdata) (r : Byte) :
    ¬ (e.byteDone r).budgetCounts := by
  by_cases hn : e.idx.toNat + 1 < e.rlen.toNat <;>
    simp [budgetCounts, Eng.byteDone, Eng.receive_eq, hn, hs]

/-- All that is not hidden is the same. -/
theorem Eng.Alike.visible {e e' : Eng} (ha : e.Alike e') :
    e'.phase = e.phase ∧ e'.op = e.op ∧ e'.wbyte = e.wbyte ∧ e'.rlen = e.rlen ∧ e'.addr = e.addr ∧ e'.seg = e.seg ∧
      e'.idx = e.idx ∧ e'.step = e.step ∧ e'.why = e.why := by
  obtain ⟨l, a, b, c, rfl⟩ := ha.hidden
  exact ⟨rfl, rfl, rfl, rfl, rfl, rfl, rfl, rfl, rfl⟩

/-- Where no byte is held and the budget does not count, the hidden variables are free. -/
theorem Eng.alike_withHidden {e : Eng} (hl : ¬ e.budgetCounts) (hr : e.received = 0) (left : BitVec 4)
    (rx0 rx1 rx2 : Byte) : e.Alike (e.withHidden left rx0 rx1 rx2) :=
  ⟨⟨_, _, _, _, rfl⟩, fun h => absurd h hl, by simp [hr], by simp [hr], by simp [hr]⟩

/-! Each move of the script keeps two such engines alike. -/

section
variable {e e' : Eng} (ha : e.Alike e')
include ha

theorem Eng.Alike.start (hp : e.placed) (hs : e.step = .start) :
    Eng.Alike { e with left := if e.why = .segment then e.retry else e.left, step := .addr }
      { e' with left := if e'.why = .segment then e'.retry else e'.left, step := .addr } := by
  obtain ⟨⟨l, a, b, c, rfl⟩, hl, -, -, -⟩ := ha
  have hwhy : e.why ≠ .segment → (e.withHidden l a b c).left = e.left := fun hw => by
    obtain ⟨-, -, hat⟩ := hp
    simp only [hs] at hat
    exact hl (.inr ⟨hs, (hat.resolve_left hw).1⟩)
  refine ⟨⟨_, a, b, c, rfl⟩, fun _ => ?_, by simp [received], by simp [received], by simp [received]⟩
  by_cases hw : e.why = .segment
  · simp [withHidden, hw]
  · simpa [withHidden, hw] using hwhy hw

theorem Eng.Alike.dataPhase : e.dataPhase.Alike e'.dataPhase := by
  obtain ⟨⟨l, a, b, c, rfl⟩, -⟩ := ha
  have heq : (e.withHidden l a b c).dataPhase = e.dataPhase.withHidden l a b c := by
    by_cases hr : isReadSegment e.op e.seg <;> by_cases hn : e.rlen = 0 <;>
      simp only [Eng.dataPhase, withHidden, hr, hn, if_true, if_false, Bool.false_eq_true]
  rw [heq]
  unfold Eng.dataPhase
  split_ifs with hr hn
  · exact alike_withHidden (by simp [budgetCounts]) (by simp [received, hn]) ..
  · exact alike_withHidden (by simp [budgetCounts]) (by simp [received]) ..
  · exact alike_withHidden (by simp [budgetCounts]) (by simp [received]) ..

theorem Eng.Alike.addressNacked (hs : e.step = .addr) : e.addressNacked.Alike e'.addressNacked := by
  obtain ⟨⟨l, a, b, c, rfl⟩, hl, -, -, -⟩ := ha
  obtain rfl : l = e.left := hl (.inl hs)
  have heq : (e.withHidden e.left a b c).addressNacked = e.addressNacked.withHidden e.addressNacked.left a b c := by
    by_cases hz : e.left = 0 <;> simp only [Eng.addressNacked, withHidden, hz, if_true, if_false]
  rw [heq]
  have hr : e.addressNacked.received = 0 := by
    unfold Eng.addressNacked
    split_ifs <;> simp [received]
  exact ⟨⟨_, _, _, _, rfl⟩, fun _ => rfl, by simp [hr], by simp [hr], by simp [hr]⟩

theorem Eng.Alike.segmentDone (hw : isReadSegment e.op e.seg = false) : e.segmentDone.Alike e'.segmentDone := by
  obtain ⟨⟨l, a, b, c, rfl⟩, -⟩ := ha
  have heq : (e.withHidden l a b c).segmentDone = e.segmentDone.withHidden l a b c := by
    by_cases hn : hasNextSegment e.op e.seg <;>
      simp only [Eng.segmentDone, withHidden, hn, if_true, if_false, Bool.false_eq_true]
  rw [heq]
  unfold Eng.segmentDone
  split_ifs with hn
  · exact alike_withHidden (by simp [budgetCounts]) (by simp [received]) ..
  · have hop : ¬ (e.op = 0x4 ∨ e.op = 0x5) := not_read_of_last_write hw (by simpa using hn)
    exact alike_withHidden (by simp [budgetCounts]) (by simp only [received, hop, and_false, if_false]) ..

theorem Eng.Alike.dataNack :
    Eng.Alike { e with step := .stop, why := .dataNack } { e' with step := .stop, why := .dataNack } := by
  obtain ⟨⟨l, a, b, c, rfl⟩, -⟩ := ha
  exact alike_withHidden (by simp [budgetCounts]) (by simp [received]) l a b c

theorem Eng.Alike.byteDone (hs : e.step = .rdata) (r : Byte) : (e.byteDone r).Alike (e'.byteDone r) := by
  obtain ⟨⟨l, a, b, c, rfl⟩, -, h0, h1, h2⟩ := ha
  have hheld : e.received = e.idx.toNat := by simp only [received, hs]
  have heq : (e.withHidden l a b c).byteDone r = (e.byteDone r).withHidden l (if e.idx = 0 then r else a)
      (if e.idx = 1 then r else b) (if e.idx = 2 then r else c) := by
    by_cases hn : e.idx.toNat + 1 < e.rlen.toNat <;>
      simp only [Eng.byteDone, Eng.receive_eq, withHidden, hn, if_true, if_false]
  have hle := received_byteDone_le hs r
  obtain ⟨hx0, hx1, hx2⟩ := byteDone_rx e r
  rw [hheld] at h0 h1 h2
  rw [heq]
  refine ⟨⟨_, _, _, _, rfl⟩, fun hb => absurd hb (not_budgetCounts_byteDone hs r), fun h => ?_, fun h => ?_,
    fun h => ?_⟩
  · exact (ite_congr rfl (fun _ => rfl) fun hne => h0 (by bv_omega)).trans hx0.symm
  · exact (ite_congr rfl (fun _ => rfl) fun hne => h1 (by bv_omega)).trans hx1.symm
  · exact (ite_congr rfl (fun _ => rfl) fun hne => h2 (by bv_omega)).trans hx2.symm

/-- A completion leaves them alike. -/
theorem Eng.Alike.idle : Eng.Alike { e with phase := .idle } { e' with phase := .idle } := by
  obtain ⟨⟨l, a, b, c, rfl⟩, hl, h0, h1, h2⟩ := ha
  exact ⟨⟨l, a, b, c, rfl⟩, hl, h0, h1, h2⟩

/-- Both deliver the same bytes (R112). -/
theorem Eng.Alike.receivedPayload_eq (hr : e.received = e.rlen.toNat) (hn : e.rlen ≠ 0) :
    receivedPayload e' = receivedPayload e := by
  have hpos : 0 < e.rlen.toNat := Nat.pos_of_ne_zero fun h => hn (BitVec.eq_of_toNat_eq h)
  obtain ⟨⟨l, a, b, c, rfl⟩, -, h0, h1, h2⟩ := ha
  rw [hr] at h0 h1 h2
  unfold receivedPayload
  exact congr (congr (congrArg payload (h0 hpos)) (ite_congr rfl (fun hle => h1 hle) fun _ => rfl))
    (ite_congr rfl (fun heq => h2 (by omega)) fun _ => rfl)

end

/-- Both deliver the same bytes to DATA (R112). -/
theorem Eng.Alike.deliver {b : Block} {e' : Eng} (ha : b.eng.Alike e') (hops : b.eng.operandsLegal) (hs : b.eng.step = .stop)
    (hw : b.eng.why = .success) : Block.deliver { b with eng := e' } = { b.deliver with eng := e' } := by
  obtain ⟨-, hop, -, hrlen, -⟩ := ha.visible
  simp only [Block.deliver, hop, hrlen]
  by_cases hread : b.eng.op = 0x4 ∨ b.eng.op = 0x5
  · have hr : b.eng.received = b.eng.rlen.toNat := by simp only [Eng.received, hs, hw, hread, and_self, if_true]
    have hn : b.eng.rlen ≠ 0 := by
      rcases hops with ⟨h3, -⟩ | ⟨-, hn⟩ | ⟨-, hn, -⟩
      · rw [h3] at hread
        exact absurd hread (by decide)
      · exact hn
      · exact hn
    simp only [hread, if_true, ha.receivedPayload_eq hr hn]
  · simp only [hread, if_false]

section
variable (s : State) (e : Eng)

@[simp] theorem State.useAnswer_setEng : (s.setEng e).useAnswer = s.useAnswer.setEng e := by
  unfold State.useAnswer
  cases h : s.partner.answers <;> simp only [State.setEng_partner, h] <;> rfl

@[simp] theorem State.txResult_setEng : (s.setEng e).txResult = s.txResult := rfl
@[simp] theorem State.rxResult_setEng : (s.setEng e).rxResult = s.rxResult := rfl
@[simp] theorem State.emit_setEng (y : Symbol) (held : Bool) : (s.setEng e).emit y held = (s.emit y held).setEng e := rfl
@[simp] theorem State.setEng_setEng (e' : Eng) : (s.setEng e).setEng e' = s.setEng e' := rfl
@[simp] theorem State.engineEnabled_setEng (h : e.phase = s.blk.eng.phase) :
    (s.setEng e).engineEnabled = s.engineEnabled := by simp [State.engineEnabled, h]

/-- A completion keeps the engine's fields but its phase (R172). -/
theorem State.raise_setEng (k : ErrKind) (io : BitVec 4) :
    (s.setEng e).raise k io = (s.raise k io).setEng { e with phase := .idle } := rfl

theorem State.loseArbitration_setEng (y : Symbol) :
    (s.setEng e).loseArbitration y = (s.loseArbitration y).setEng { e with phase := .idle } := by
  simp only [State.loseArbitration, State.useAnswer_setEng, State.emit_setEng]
  rfl

end

/-- The STOP of an address byte NACKed too often (R108). -/
theorem engineStop_of_addrNack {s : State} (h : s.blk.eng.why = .addrNack) :
    s.engineStop = (s.emit .stop false).raise .busIOError 1 := by simp only [State.engineStop, h]

/-- The STOP of a NACKed write byte (R109). -/
theorem engineStop_of_dataNack {s : State} (h : s.blk.eng.why = .dataNack) :
    s.engineStop = (s.emit .stop false).raise .busIOError 2 := by simp only [State.engineStop, h]

/-- The STOP of success (R112). -/
theorem engineStop_of_success {s : State} (h : s.blk.eng.why = .success) :
    s.engineStop = ({ s.emit .stop false with blk := s.blk.deliver } : State).complete 0 0 := by
  simp only [State.engineStop, h]
  rfl

/-! Each symbol keeps two such machines alike: it is the same symbol, and it makes the same registers of them. -/

section
variable {s : State} {e' : Eng} (ha : s.blk.eng.Alike e')
include ha

theorem loseArbitration_alike (y : Symbol) : (s.loseArbitration y).Alike ((s.setEng e').loseArbitration y) :=
  ⟨_, s.loseArbitration_setEng e' y, by simpa [State.loseArbitration] using ha.idle⟩

theorem engineStart_alike (hp : s.blk.eng.placed) (hs : s.blk.eng.step = .start) :
    s.engineStart.Alike (s.setEng e').engineStart := by
  refine ⟨_, ?_, ha.start hp hs⟩
  obtain ⟨l, a, b, c, rfl⟩ := ha.hidden
  rfl

theorem engineAddr_alike (hs : s.blk.eng.step = .addr) : s.engineAddr.Alike (s.setEng e').engineAddr := by
  obtain ⟨-, hop, -, -, haddr, hseg, -⟩ := ha.visible
  simp only [State.engineAddr, State.setEng_blk_eng, State.txResult_setEng, State.useAnswer_setEng, State.emit_setEng,
    State.setEng_setEng, hop, haddr, hseg]
  cases s.txResult with
  | arb => exact loseArbitration_alike ha _
  | ack => exact ⟨_, rfl, ha.dataPhase⟩
  | nack => exact ⟨_, rfl, ha.addressNacked hs⟩

theorem engineWdata_alike (hp : s.blk.eng.placed) (hs : s.blk.eng.step = .wdata) :
    s.engineWdata.Alike (s.setEng e').engineWdata := by
  obtain ⟨-, -, hat⟩ := hp
  simp only [hs] at hat
  obtain ⟨-, -, hwb, -⟩ := ha.visible
  have hnack := ha.dataNack
  rw [hwb] at hnack
  simp only [State.engineWdata, State.setEng_blk_eng, State.txResult_setEng, State.useAnswer_setEng,
    State.emit_setEng, State.setEng_setEng, hwb]
  cases s.txResult with
  | arb => exact loseArbitration_alike ha _
  | ack => exact ⟨_, rfl, ha.segmentDone hat⟩
  | nack => exact ⟨_, rfl, hnack⟩

theorem engineRdata_alike (hs : s.blk.eng.step = .rdata) : s.engineRdata.Alike (s.setEng e').engineRdata := by
  obtain ⟨-, -, -, hrlen, -, -, hidx, -⟩ := ha.visible
  simp only [State.engineRdata, State.setEng_blk_eng, State.rxResult_setEng, State.useAnswer_setEng,
    State.emit_setEng, State.setEng_setEng, hrlen, hidx]
  cases s.rxResult with
  | none => exact loseArbitration_alike ha _
  | some r => exact ⟨_, rfl, ha.byteDone hs r⟩

theorem engineStop_alike (hp : s.blk.eng.placed) (hs : s.blk.eng.step = .stop) :
    s.engineStop.Alike (s.setEng e').engineStop := by
  obtain ⟨hops, -, hat⟩ := hp
  simp only [hs] at hat
  obtain ⟨-, -, -, -, -, -, -, -, hwhy⟩ := ha.visible
  rcases hat with ⟨hw, -⟩ | hw | ⟨hw, -⟩
  · rw [engineStop_of_success hw, engineStop_of_success (hwhy.trans hw)]
    have hd : (s.setEng e').blk.deliver = { s.blk.deliver with eng := e' } := ha.deliver hops hs hw
    exact ⟨{ e' with phase := .idle }, by rw [hd]; rfl, by simpa using ha.idle⟩
  · rw [engineStop_of_addrNack hw, engineStop_of_addrNack (hwhy.trans hw)]
    exact ⟨_, State.raise_setEng (s.emit .stop false) e' _ _, ha.idle⟩
  · rw [engineStop_of_dataNack hw, engineStop_of_dataNack (hwhy.trans hw)]
    exact ⟨_, State.raise_setEng (s.emit .stop false) e' _ _, ha.idle⟩

theorem engineSymbol_alike (hp : s.blk.eng.placed) : s.engineSymbol.Alike (s.setEng e').engineSymbol := by
  obtain ⟨-, -, -, -, -, -, -, hstep, -⟩ := ha.visible
  simp only [State.engineSymbol, State.setEng_blk_eng, hstep]
  cases hs : s.blk.eng.step with
  | start => exact engineStart_alike ha hp hs
  | addr => exact engineAddr_alike ha hs
  | wdata => exact engineWdata_alike ha hp hs
  | rdata => exact engineRdata_alike ha hs
  | stop => exact engineStop_alike ha hp hs

end

theorem engineStep_alike {s u : State} (hp : s.blk.eng.phase = .run → s.blk.eng.placed) (h : s.Alike u) :
    (engineStep s).Alike (engineStep u) := by
  obtain ⟨e', rfl, ha⟩ := h
  have hen := s.engineEnabled_setEng e' ha.visible.1
  cases he : s.engineEnabled with
  | false => rw [engineStep_disabled he, engineStep_disabled (hen.trans he)]; exact ⟨e', rfl, ha⟩
  | true =>
    rw [engineStep_enabled he, engineStep_enabled (hen.trans he)]
    exact engineSymbol_alike ha (hp ((engineEnabled_iff s).mp he).1)

/-- A whole run keeps two such machines alike. -/
theorem engineRun_alike (k : Nat) {s u : State} (hp : s.blk.eng.phase = .run → s.blk.eng.placed) (h : s.Alike u) :
    (engineRun k s).Alike (engineRun k u) := by
  induction k generalizing s u with
  | zero => exact h
  | succ k ih => exact ih (engineStep_placed hp) (engineStep_alike hp h)

/-- Which engine a bus command starts on an open bus, of legal operands (R102, R120 to R122). -/
theorem exec_bus_of_open {i : Instr} (hwf : i.wf = true)
    (hi : (∃ wb, i = .xferW wb) ∨ (∃ wb n, i = .xferWR wb n) ∨ ∃ n, i = .xferR n) :
    ∃ op wb n, (∀ b : Block, (b.startEngine op wb n).eng.placed) ∧
      ∀ s : State, s.blk.status.isOpen = true → exec i s = .next { s with blk := s.blk.startEngine op wb n } := by
  have hplaced {op : BitVec 4} {wb : Byte} {n : BitVec 2}
      (hops : ∀ b : Block, (b.startEngine op wb n).eng.operandsLegal) (b : Block) :
      (b.startEngine op wb n).eng.placed := ⟨hops b, by simp, .inl rfl⟩
  have hlaunch {s : State} {op : BitVec 4} {wb : Byte} {n : BitVec 2} (ho : s.blk.status.isOpen = true) :
      s.launchBus op wb n = { s with blk := s.blk.startEngine op wb n } := by simp [State.launchBus, ho]
  rcases hi with ⟨wb, rfl⟩ | ⟨wb, n, rfl⟩ | ⟨n, rfl⟩
  · exact ⟨0x3, wb, 0, hplaced fun _ => .inl ⟨rfl, rfl⟩, fun s ho => congrArg _ (hlaunch ho)⟩
  · exact ⟨0x4, wb, n, hplaced fun _ => .inr (.inl ⟨rfl, by simpa [Instr.wf] using hwf⟩),
      fun s ho => congrArg _ (hlaunch ho)⟩
  · exact ⟨0x5, 0, n, hplaced fun _ => .inr (.inr ⟨rfl, by simpa [Instr.wf] using hwf, rfl⟩),
      fun s ho => congrArg _ (hlaunch ho)⟩

/-- Settles O52: the launch leaves two alike engines, and the run keeps them alike with all else the same. -/
theorem noEngineStateSurvives : Obligations.NoEngineStateSurvives := by
  intro s e i k hwf hi ho
  obtain ⟨op, wb, n, hplaced, hexec⟩ := exec_bus_of_open hwf hi
  have hstart : State.Alike { s with blk := s.blk.startEngine op wb n }
      { s.setEng e with blk := (s.setEng e).blk.startEngine op wb n } :=
    ⟨_, rfl, Eng.alike_withHidden (by simp [Eng.budgetCounts]) rfl e.left e.rx0 e.rx1 e.rx2⟩
  obtain ⟨e', heq, ha⟩ := engineRun_alike k (fun _ => hplaced s.blk) hstart
  refine ⟨_, _, hexec s ho, hexec (s.setEng e) ho, ?_, ?_⟩ <;> rw [heq]
  · rfl
  · exact ha.visible.1

end Sys2Proof.Machine
end

section
/-! PROOFS. The host's window: which accesses are admitted, and what a read and an ignored write do (20_memory.md R50,
R51, R52). -/

namespace Sys2Proof.Machine

/-- An aligned word inside the window is at its offset (R52). -/
theorem locate_of_aligned_word {base addr : Nat} (hlo : base ≤ addr) (hhi : addr < base + 0x100)
    (h4 : (addr - base) % 4 = 0) : locate base addr 4 = .ok (addr - base) :=
  if_pos ⟨rfl, hlo, hhi, h4⟩

/-- An access that has a byte `a` in the window and is no aligned word is unsupported, wherever it begins (R52). -/
theorem locate_of_unaligned_touch {base addr width a : Nat} (hfirst : addr ≤ a) (hlast : a < addr + width)
    (hlo : base ≤ a) (hhi : a < base + 0x100) (hbad : ¬ (width = 4 ∧ base ≤ addr ∧ (addr - base) % 4 = 0)) :
    locate base addr width = .error .unsupportedAccess := by
  have hrefused : ¬ (width = 4 ∧ base ≤ addr ∧ addr < base + 0x100 ∧ (addr - base) % 4 = 0) :=
    fun ⟨hw, hb, _, h4⟩ => hbad ⟨hw, hb, h4⟩
  have htouch : base < addr + max width 1 ∧ addr < base + 0x100 := by omega
  rw [locate, if_neg hrefused, if_pos htouch]

section
variable {s : State} {addr width : Nat}

/-- An admitted access is `HostRead` or `HostWrite` at its offset (R52). -/
theorem hostAccess_of_located {off : Nat} (h : locate s.cfg.base addr width = .ok off) (v : Word) :
    hostAccess (.read addr width) s = hostReadAt off s ∧ hostAccess (.write addr width v) s = hostWriteAt off v s := by
  simp only [hostAccess, h, and_self]

/-- An access without an offset is refused, a read and a write alike (R52). -/
theorem hostAccess_of_not_located {why : Refusal} (h : locate s.cfg.base addr width = .error why) (v : Word) :
    hostAccess (.read addr width) s = .refused why ∧ hostAccess (.write addr width v) s = .refused why := by
  simp only [hostAccess, h, and_self]

end

/-- Settles O31: `locate` has the offset of an aligned word and refuses the other accesses that touch the window. -/
theorem onlyWordAccessesAreAdmitted : Obligations.OnlyWordAccessesAreAdmitted := by
  intro s addr width v
  refine ⟨?_, fun a hfirst hlast hlo hhi hbad => ?_⟩
  · rintro rfl hlo hhi h4
    exact hostAccess_of_located (locate_of_aligned_word hlo hhi h4) v
  · exact hostAccess_of_not_located (locate_of_unaligned_touch hfirst hlast hlo hhi hbad) v

/-- Settles O28: the register at such an offset is one of those a host write ignores. -/
theorem readOnlyWritesAreIgnored : Obligations.ReadOnlyWritesAreIgnored := by
  intro s off v h4 hw hctrl hcmd hdata
  obtain ⟨r, hr⟩ := Reg.ofOffset_some h4 hw
  obtain ⟨-, -, hctrlIff, hcmdIff, hdataIff⟩ := Reg.ofOffset_inv hr
  rw [hostWriteAt_of_offset hr]
  cases r with
  | ctrl => exact absurd (hctrlIff.mp rfl) hctrl
  | cmd => exact absurd (hcmdIff.mp rfl) hcmd
  | data => exact absurd (hdataIff.mp rfl) hdata
  | status | raw | res64Lo | res64Hi | res32 | reserved => rfl

/-- The word at each offset of the window, by the register map of R21. -/
theorem Block.readReg_of_offset {off : Nat} {r : Reg} (h : Reg.ofOffset off = some r) (b : Block) :
    b.readReg r =
      (if off = 0x00 then b.ctrl.word
      else if off = 0x04 then b.status.word
      else if off = 0x08 then b.cmd
      else if off = 0x0C then b.data.setWidth 32
      else if off = 0x10 then b.raw.setWidth 32
      else if off = 0x14 then b.res64.extractLsb' 0 32
      else if off = 0x18 then b.res64.extractLsb' 32 32
      else if off = 0x1C then b.res32
      else 0) := by
  unfold Reg.ofOffset at h
  split_ifs at h ⊢ <;> cases h <;> rfl

/-- The two registers of RES64 make up its value (R29, R55). -/
theorem res64_of_halves (x : BitVec 64) :
    ((x.extractLsb' 32 32).setWidth 64 <<< 32) ||| (x.extractLsb' 0 32).setWidth 64 = x := by
  ext k hk
  by_cases hlow : k < 32
  · simp [hlow, BitVec.getLsbD_eq_getElem hk]
  · have hshift : k - 32 < 32 ∧ 32 + (k - 32) = k := by omega
    simp [hlow, hshift, hk]

/-- Settles O29: a read hands the host the register's word and nothing else. -/
theorem readsHaveNoSideEffect : Obligations.ReadsHaveNoSideEffect := by
  intro s off h4 hw
  obtain ⟨r, hr⟩ := Reg.ofOffset_some h4 hw
  refine ⟨?_, res64_of_halves s.blk.res64⟩
  rw [hostReadAt_of_offset hr, s.blk.readReg_of_offset hr]
  rfl

end Sys2Proof.Machine
end

section
/-! PROOFS. The frame of an engine step: hidden state until the completion, and what a completion writes (20_memory.md
R56, 43_control.md R172). -/

namespace Sys2Proof.Machine

/-- A delivery writes DATA and NBYTES only (R112). -/
theorem Block.deliver_eq (b : Block) :
    b.deliver =
      { b with data := b.deliver.data, status := { b.status with nbytes := b.deliver.status.nbytes } } := by
  unfold Block.deliver
  split <;> rfl

/-- What an engine step does to the block: hidden state only, or a completion, with or without a delivery (R105). -/
theorem engineStep_blk_cases (s : State) :
    (∃ e, (engineStep s).blk = { s.blk with eng := e }) ∨ (∃ err io, (engineStep s).blk = s.blk.complete err io) ∨
      (engineStep s).blk = s.blk.deliver.complete 0 0 := by
  cases he : s.engineEnabled with
  | false => exact .inl ⟨s.blk.eng, by rw [engineStep_disabled he]⟩
  | true =>
    rw [engineStep_enabled he]
    rcases engineSymbol_cases s with ⟨e, y, hblk, -⟩ | ⟨y, hblk, -⟩ | ⟨-, -, ⟨-, hblk⟩ | ⟨-, hblk⟩ | ⟨-, -, hblk⟩⟩
    · exact .inl ⟨e, hblk⟩
    · exact .inr (.inl ⟨3, 3, hblk⟩)
    · exact .inr (.inl ⟨3, 1, hblk⟩)
    · exact .inr (.inl ⟨3, 2, hblk⟩)
    · exact .inr (.inr hblk)

/-- An engine step moves neither the parameters nor the host nor the turns. -/
theorem engineStep_frame (s : State) :
    (engineStep s).cfg = s.cfg ∧ (engineStep s).host = s.host ∧ (engineStep s).turns = s.turns := by
  cases he : s.engineEnabled with
  | false => rw [engineStep_disabled he]; exact ⟨rfl, rfl, rfl⟩
  | true =>
    obtain ⟨hcfg, hhost, hturns, -⟩ := engineSymbol_frame s
    rw [engineStep_enabled he]
    exact ⟨hcfg, hhost, hturns⟩

/-- Settles O41: a step that completes leaves the engine idle; what a completion writes is STATUS's outcome and, where
it delivers, DATA. -/
theorem registersChangeOnlyAtCompletion : Obligations.RegistersChangeOnlyAtCompletion := by
  intro s
  refine ⟨fun hrun => ?_, ?_, ?_⟩
  · rcases engineStep_blk_cases s with ⟨e, hblk⟩ | ⟨err, io, hblk⟩ | hblk
    · rw [hblk]
    · simp [hblk] at hrun
    · simp [hblk] at hrun
  · rcases engineStep_blk_cases s with ⟨e, hblk⟩ | ⟨err, io, hblk⟩ | hblk
    · rw [hblk]
    · rw [hblk]; rfl
    · rw [hblk, Block.deliver_eq]; rfl
  · obtain ⟨hcfg, hhost, hturns⟩ := engineStep_frame s
    rw [← hcfg, ← hhost, ← hturns]

end Sys2Proof.Machine
end

section
/-! PROOFS. The encoder's word by its fields, and that a word decodes exactly to the well-formed command it encodes
(30_encoding.md R70, R74, R80, R81). -/

namespace Sys2Proof

/-- The word of an OP, a WBYTE and an RLEN, its reserved fields 0 (R70, R80). -/
def commandWord (op : BitVec 4) (wb : Byte) (n : BitVec 2) : Word :=
  (n.setWidth 32 <<< 16) ||| (wb.setWidth 32 <<< 8) ||| op.setWidth 32

/-- The WBYTE a command carries, 0 where it has none (R80). -/
def Instr.wbyte : Instr → Byte
  | .xferW wb | .xferWR wb _ => wb
  | _ => 0

/-- The RLEN a command carries, 0 where it has none (R80). -/
def Instr.rlen : Instr → BitVec 2
  | .xferWR _ n | .xferR n => n
  | _ => 0

theorem encode_eq_commandWord (i : Instr) : encode i = commandWord (opcode i) i.wbyte i.rlen := by
  cases i <;> simp [encode, commandWord, opcode, Instr.wbyte, Instr.rlen]

/-- Where each bit of a command word comes from (R70). -/
theorem getLsbD_commandWord (op : BitVec 4) (wb : Byte) (n : BitVec 2) {k : Nat} (hk : k < 32) :
    (commandWord op wb n).getLsbD k =
      (!decide (k < 16) && n.getLsbD (k - 16) || !decide (k < 8) && wb.getLsbD (k - 8) || op.getLsbD k) := by
  simp [commandWord, hk]

theorem wbyteField_commandWord (op : BitVec 4) (wb : Byte) (n : BitVec 2) : wbyteField (commandWord op wb n) = wb := by
  ext k hk
  rw [wbyteField, BitVec.getElem_extractLsb', getLsbD_commandWord _ _ _ (by omega)]
  interval_cases k <;> simp

theorem rlenField_commandWord (op : BitVec 4) (wb : Byte) (n : BitVec 2) : rlenField (commandWord op wb n) = n := by
  ext k hk
  rw [rlenField, BitVec.getElem_extractLsb', getLsbD_commandWord _ _ _ (by omega)]
  interval_cases k <;> simp

@[simp] theorem wbyteField_encode (i : Instr) : wbyteField (encode i) = i.wbyte := by
  rw [encode_eq_commandWord, wbyteField_commandWord]

@[simp] theorem rlenField_encode (i : Instr) : rlenField (encode i) = i.rlen := by
  rw [encode_eq_commandWord, rlenField_commandWord]

/-- The fixed fields of any command's word (R70, R73). -/
theorem fixedFields_encode (i : Instr) : Laws.FixedFields.Statement i := by
  cases i with
  | nop => exact Laws.FixedFields.nop
  | busOpen => exact Laws.FixedFields.busOpen
  | busClose => exact Laws.FixedFields.busClose
  | xferW wb => exact Laws.FixedFields.xferW wb
  | xferWR wb n => exact Laws.FixedFields.xferWR wb n
  | xferR n => exact Laws.FixedFields.xferR n
  | crcChk => exact Laws.FixedFields.crcChk
  | convT => exact Laws.FixedFields.convT
  | convRH => exact Laws.FixedFields.convRH
  | clrstat => exact Laws.FixedFields.clrstat

@[simp] theorem opField_encode (i : Instr) : opField (encode i) = opcode i := (fixedFields_encode i).1

/-- Decoding reads a well-formed command back from its word: its reserved fields are 0, its OP selects the command's
form, and that form admits its WBYTE and RLEN. -/
theorem decode_encode {i : Instr} (hwf : i.wf = true) : decode (encode i) = .ok i := by
  obtain ⟨hop, hrsv1, hrsv2⟩ := fixedFields_encode i
  have hwb := wbyteField_encode i
  have hn := rlenField_encode i
  cases i with
  | nop | busOpen | busClose | crcChk | convT | convRH | clrstat => rfl
  | xferW wb => simp_all [decode, decodeXferW, opcode, Instr.wbyte, Instr.rlen]
  | xferWR wb n => simp_all [decode, decodeXferWR, opcode, Instr.wf, Instr.wbyte, Instr.rlen]
  | xferR n => simp_all [decode, decodeXferR, opcode, Instr.wf, Instr.wbyte, Instr.rlen]

/-- The legal words are the words of the well-formed commands. -/
theorem decode_ok_iff {v : Word} {i : Instr} : decode v = .ok i ↔ i.wf = true ∧ encode i = v := by
  constructor
  · intro hd
    exact ⟨decode_ok_wf hd, encode_of_decode_ok hd⟩
  · rintro ⟨hwf, rfl⟩
    exact decode_encode hwf

/-- Settles O1: the two directions are `decode_encode`, and `decode_ok_wf` with `encode_of_decode_ok`. -/
theorem decodeAndEncodeAgree : Obligations.DecodeAndEncodeAgree :=
  ⟨fun _ hwf => decode_encode hwf, fun _ _ hd => decode_ok_iff.mp hd⟩

/-- Settles O4: each word is its command's encoding, so it decodes to it. -/
theorem theSequenceWordsDecode : Obligations.TheSequenceWordsDecode := by
  intro p hp
  have hword : p.1.wf = true ∧ encode p.1 = p.2 := by
    revert p
    decide
  exact ⟨decode_ok_iff.mpr hword, hword.2⟩

end Sys2Proof
end

section
/-! PROOFS. The match and mask of the opcode table (30_encoding.md R73, R74): a mask covers the fields a row fixes. -/

namespace Sys2Proof

/-- The bits the mask without WBYTE and RLEN leaves out are those two fields (R70). -/
theorem and_operandMask (v : Word) :
    v &&& 0x0003FF00#32 = ((rlenField v).setWidth 32 <<< 16) ||| ((wbyteField v).setWidth 32 <<< 8) := by
  apply BitVec.eq_of_getLsbD_eq
  intro k hk
  simp only [rlenField, wbyteField, BitVec.getLsbD_and, BitVec.getLsbD_or, BitVec.getLsbD_shiftLeft,
    BitVec.getLsbD_setWidth, BitVec.getLsbD_extractLsb']
  interval_cases k <;> simp

/-- The mask without WBYTE and RLEN keeps OP, the reserved fields being 0. -/
theorem commandWord_and_fixedMask (op : BitVec 4) (wb : Byte) (n : BitVec 2) :
    commandWord op wb n &&& 0xFFFC00FF#32 = op.setWidth 32 := by
  apply BitVec.eq_of_getLsbD_eq
  intro k hk
  rw [BitVec.getLsbD_and, getLsbD_commandWord _ _ _ hk, BitVec.getLsbD_setWidth]
  interval_cases k <;> simp

/-- A word is a command word when OP and the reserved fields match; its WBYTE and RLEN are then the operands. -/
theorem commandWord_eq_iff {v : Word} {op : BitVec 4} {wb : Byte} {n : BitVec 2} :
    commandWord op wb n = v ↔ v &&& 0xFFFC00FF#32 = op.setWidth 32 ∧ wbyteField v = wb ∧ rlenField v = n := by
  constructor
  · rintro rfl
    exact ⟨commandWord_and_fixedMask .., wbyteField_commandWord .., rlenField_commandWord ..⟩
  · rintro ⟨hfixed, rfl, rfl⟩
    calc commandWord op (wbyteField v) (rlenField v)
        = v &&& 0x0003FF00#32 ||| v &&& 0xFFFC00FF#32 := by rw [and_operandMask, hfixed, commandWord]
      _ = v &&& (0x0003FF00#32 ||| 0xFFFC00FF#32) := BitVec.and_or_distrib_left.symm
      _ = v := BitVec.and_allOnes

/-- A wider mask m asks besides that the operand bits it covers are 0. -/
theorem and_mask_eq_iff (v m : Word) (op : BitVec 4) :
    v &&& m = op.setWidth 32 ↔ v &&& (m &&& 0xFFFC00FF#32) = op.setWidth 32 ∧
      wbyteField v &&& wbyteField m = 0 ∧ rlenField v &&& rlenField m = 0 := by
  have hop : op.setWidth 32 = commandWord op 0 0 := by simp [commandWord]
  have hwb : wbyteField (v &&& m) = wbyteField v &&& wbyteField m := BitVec.extractLsb'_and
  have hn : rlenField (v &&& m) = rlenField v &&& rlenField m := BitVec.extractLsb'_and
  rw [← BitVec.and_assoc, ← hwb, ← hn, ← commandWord_eq_iff, hop, eq_comm]

/-- XFER.W's row: its mask covers RLEN. -/
theorem encode_xferW_eq_iff {v : Word} {wb : Byte} :
    encode (.xferW wb) = v ↔ v &&& 0xFFFF00FF = 0x00000003 ∧ v.extractLsb' 8 8 = wb := by
  have hmask : v &&& 0xFFFF00FF = 0x00000003 ↔ v &&& 0xFFFC00FF#32 = 0x00000003 ∧ rlenField v = 0 := by
    have hwb : wbyteField 0xFFFF00FF = 0 := rfl
    have hn : rlenField 0xFFFF00FF = BitVec.allOnes 2 := rfl
    have hwide := and_mask_eq_iff v 0xFFFF00FF 0x3
    rw [hwb, hn, BitVec.and_allOnes] at hwide
    simpa using hwide
  rw [encode_eq_commandWord, commandWord_eq_iff, hmask, and_assoc, and_comm (a := rlenField v = 0)]
  rfl

/-- XFER.WR's row: its mask leaves out both operands. -/
theorem encode_xferWR_eq_iff {v : Word} {wb : Byte} {n : BitVec 2} :
    encode (.xferWR wb n) = v ↔
      v &&& 0xFFFC00FF = 0x00000004 ∧ v.extractLsb' 8 8 = wb ∧ v.extractLsb' 16 2 = n := by
  rw [encode_eq_commandWord, commandWord_eq_iff]
  rfl

/-- XFER.R's row: its mask covers WBYTE. -/
theorem encode_xferR_eq_iff {v : Word} {n : BitVec 2} :
    encode (.xferR n) = v ↔ v &&& 0xFFFCFFFF = 0x00000005 ∧ v.extractLsb' 16 2 = n := by
  have hmask : v &&& 0xFFFCFFFF = 0x00000005 ↔ v &&& 0xFFFC00FF#32 = 0x00000005 ∧ wbyteField v = 0 := by
    have hwb : wbyteField 0xFFFCFFFF = BitVec.allOnes 8 := rfl
    have hn : rlenField 0xFFFCFFFF = 0 := rfl
    have hwide := and_mask_eq_iff v 0xFFFCFFFF 0x5
    rw [hwb, hn, BitVec.and_allOnes] at hwide
    simpa using hwide
  rw [encode_eq_commandWord, commandWord_eq_iff, hmask, and_assoc]
  rfl

/-- A command without operands is legal as its one word. -/
theorem decode_plain_iff {v : Word} {i : Instr} (hwf : i.wf = true) : decode v = .ok i ↔ v = encode i := by
  rw [decode_ok_iff, and_iff_right hwf, eq_comm]

/-- Settles O2: a word decodes to a command when it is that command's word, which each row's match and mask say. -/
theorem decodingFollowsTheOpcodeTable : Obligations.DecodingFollowsTheOpcodeTable := by
  intro v
  refine ⟨decode_plain_iff rfl, decode_plain_iff rfl, decode_plain_iff rfl, fun wb => ?_, fun wb n => ?_,
    fun n => ?_, decode_plain_iff rfl, decode_plain_iff rfl, decode_plain_iff rfl, decode_plain_iff rfl⟩
  · rw [decode_plain_iff rfl, eq_comm, encode_xferW_eq_iff]
  · rw [decode_ok_iff, encode_xferWR_eq_iff]
    simp only [Instr.wf, bne_iff_ne]
    tauto
  · rw [decode_ok_iff, encode_xferR_eq_iff]
    simp only [Instr.wf, bne_iff_ne]
    tauto

end Sys2Proof
end

section
/-! PROOFS. The legal words, counted (30_encoding.md R75): the words of a list of all the well-formed commands. -/

namespace Sys2Proof

/-- Every WBYTE. -/
def wbyteOperands : List Byte := List.ofFn BitVec.ofFin

/-- Every RLEN a read may have (R74). -/
def rlenOperands : List (BitVec 2) := [1, 2, 3]

/-- The commands whose word carries no operand (R73). -/
def operandlessCommands : List Instr := [.nop, .busOpen, .busClose, .crcChk, .convT, .convRH, .clrstat]

/-- Every well-formed command. -/
def legalCommands : List Instr :=
  operandlessCommands ++ wbyteOperands.map .xferW ++
    rlenOperands.map .xferR ++ (wbyteOperands ×ˢ rlenOperands).map fun p => .xferWR p.1 p.2

@[simp] theorem length_wbyteOperands : wbyteOperands.length = 256 := List.length_ofFn

theorem mem_wbyteOperands (wb : Byte) : wb ∈ wbyteOperands := List.mem_ofFn.mpr ⟨wb.toFin, rfl⟩

theorem mem_rlenOperands {n : BitVec 2} : n ∈ rlenOperands ↔ n ≠ 0 := by decide +revert

theorem wbyteOperands_nodup : wbyteOperands.Nodup :=
  List.nodup_ofFn.mpr fun _ _ h => congrArg BitVec.toFin h

theorem mem_legalCommands {i : Instr} : i ∈ legalCommands ↔ i.wf = true := by
  cases i <;> simp [legalCommands, operandlessCommands, Instr.wf, mem_wbyteOperands, mem_rlenOperands]

theorem legalCommands_nodup : legalCommands.Nodup := by
  have hrlen : rlenOperands.Nodup := by decide
  have hw : (wbyteOperands.map Instr.xferW).Nodup := wbyteOperands_nodup.map fun _ _ h => by injection h
  have hwr : ((wbyteOperands ×ˢ rlenOperands).map fun p => Instr.xferWR p.1 p.2).Nodup :=
    (wbyteOperands_nodup.product hrlen).map fun p q h => by injection h with hwb hn; exact Prod.ext hwb hn
  have hr : (rlenOperands.map Instr.xferR).Nodup := hrlen.map fun _ _ h => by injection h
  have hplain : operandlessCommands.Nodup := by decide
  refine ((hplain.append hw ?_).append hr ?_).append hwr ?_
  · simp [operandlessCommands, List.disjoint_left]
  · rw [List.disjoint_append_left]
    simp [operandlessCommands, List.disjoint_left]
  · rw [List.disjoint_append_left, List.disjoint_append_left]
    simp [operandlessCommands, List.disjoint_left]

/-- The words of well-formed commands are all different, since each decodes to its command. -/
theorem legalWords_nodup : (legalCommands.map encode).Nodup := by
  refine legalCommands_nodup.map_on fun i hi j hj hij => ?_
  have hdecode : decode (encode i) = decode (encode j) := congrArg decode hij
  rw [decode_encode (mem_legalCommands.mp hi), decode_encode (mem_legalCommands.mp hj)] at hdecode
  exact Except.ok.inj hdecode

/-- The legal words of an OP are as many as the commands of that opcode. -/
theorem length_filter_legalWords (op : BitVec 4) :
    ((legalCommands.map encode).filter fun v => v.extractLsb' 0 4 == op).length =
      legalCommands.countP (opcode · == op) := by
  rw [← List.countP_eq_length_filter, List.countP_map]
  exact congrArg (List.countP · legalCommands) (funext fun i => congrArg (· == op) (opField_encode i))

/-- Settles O3: the list is the words of `legalCommands`, by `decode_ok_iff` the legal words. -/
theorem exactlyThatManyWordsAreLegal : Obligations.ExactlyThatManyWordsAreLegal := by
  refine ⟨legalCommands.map encode, legalWords_nodup, ?_, fun v => ?_, ?_, ?_, ?_⟩
  · simp [legalCommands, operandlessCommands, rlenOperands, List.length_product]
  · simp only [List.mem_map, mem_legalCommands, decode_ok_iff]
  all_goals
    rw [length_filter_legalWords]
    simp [legalCommands, operandlessCommands, rlenOperands, List.countP_map, Function.comp_def, opcode,
      List.length_product]

end Sys2Proof
end

section
/-! PROOFS. The lines of a host program (30_encoding.md R82, R83), one rule a form of line. -/

namespace Sys2Proof.Machine

/-- A variable's value is that of the first entry of its number, else 0 (assumption 8). -/
theorem find_getD_eq_getVar (vars : List (Nat × BitVec 64)) (x : Nat) :
    ((vars.find? fun q => q.1 == x).map fun q => q.2).getD 0 = getVar vars x := by
  induction vars with
  | nil => rfl
  | cons q rest ih =>
    obtain ⟨k, v⟩ := q
    by_cases hk : k = x
    · simp [getVar, hk]
    · rw [getVar, if_neg hk, ← ih, List.find?_cons_of_neg (by simpa using hk)]

/-- The low half of a pair is the low 32 bits of its variable (R83). -/
theorem pairValue_eq (hi lo : BitVec 64) : pairValue hi lo = hi <<< 32 ||| lo &&& 0xFFFFFFFF := by
  have hlo : (lo.setWidth 32).setWidth 64 = lo &&& 0xFFFFFFFF := by
    apply BitVec.eq_of_toNat_eq
    rw [BitVec.toNat_setWidth, BitVec.toNat_setWidth, BitVec.toNat_and, Nat.mod_eq_of_lt (by omega)]
    exact (Nat.and_two_pow_sub_one_eq_mod lo.toNat 32).symm
  rw [pairValue, hlo]

theorem hostStep_of_no_line {s : State} (h : s.host.program[s.host.pc]? = none) : hostStep s = .next s := by
  simp only [hostStep, h]

/-- A jump goes to the first line that carries its label, and is a fault where there is none (assumptions 9, 23). -/
theorem jumpTo_spec (k : Nat) (s : State) :
    (∀ i, s.host.program.findIdx? (· == .label k) = some i → jumpTo k s = .next (s.setHostPc i)) ∧
      (s.host.program.findIdx? (· == .label k) = none → jumpTo k s = .fault (.undefinedLabel k)) := by
  constructor
  · intro i hi
    simp only [jumpTo, hi]
  · intro hnone
    simp only [jumpTo, hnone]

/-- What a write of a variable leaves: the list in its form, that variable the value, the others as before. -/
theorem setHostVar_spec {s : State} (h : varsCanonical s.host.vars) (x : Nat) (v : BitVec 64) :
    ∃ vars, (.next (s.setHostVar x v) : Host.Outcome State Fault Refusal) =
        .next { s with host := { s.host with vars := vars } } ∧
      varsCanonical vars ∧ ∀ y, getVar vars y = if y = x then v else getVar s.host.vars y :=
  ⟨setVar s.host.vars x v, rfl, setVar_canonical h x v, fun y => getVar_setVar h x y v⟩

theorem runLine_read_of_offset {off : Nat} {r : Reg} (h : Reg.ofOffset off = some r) (x : Nat) (s : State) :
    runLine (.read off x) s = .next ((s.withRead (s.blk.readReg r)).setHostVar x ((s.blk.readReg r).setWidth 64)) := by
  simp only [runLine, h]

theorem Reg.ofOffset_none {off : Nat} (h : ¬ (off % 4 = 0 ∧ off < 0x100)) : Reg.ofOffset off = none := by
  rw [Reg.ofOffset, if_pos (by omega)]

theorem runLine_read_of_no_offset {off : Nat} (h : Reg.ofOffset off = none) (x : Nat) (s : State) :
    runLine (.read off x) s = .refused .unsupportedAccess := by
  simp only [runLine, h]

/-- The host's move, by its turn or with no turn listed (R8, assumption 2). -/
theorem step_of_host_move {s : State} {rest : List Turn}
    (h : s.turns = .host :: rest ∨
      (s.turns = [] ∧ rest = [] ∧ (s.blk.eng.phase = .idle ∨ s.partner.holdsScl = true))) :
    step s = hostStep { s with turns := rest } := by
  rcases h with hturn | ⟨hnone, rfl, hno⟩
  · exact step_of_turns_cons hturn
  · have hdis : s.engineEnabled = false := by
      rcases hno with hidle | hscl
      · simp [State.engineEnabled, hidle]
      · simp [State.engineEnabled, hscl]
    rw [step_of_no_turn hnone hdis, ← hnone]

/-- The state a host's line runs in: the turn taken, the program counter past the line (R82). -/
def State.pastLine (s : State) (rest : List Turn) : State :=
  { s with turns := rest, host := { s.host with pc := s.host.pc + 1 } }

/-- The host's move is the line at its program counter (R8, R82). -/
theorem step_of_host_line {s : State} {rest : List Turn} {l : HostLine}
    (hmove : s.turns = .host :: rest ∨
      (s.turns = [] ∧ rest = [] ∧ (s.blk.eng.phase = .idle ∨ s.partner.holdsScl = true)))
    (hline : s.host.program[s.host.pc]? = some l) : step s = runLine l (s.pastLine rest) := by
  rw [step_of_host_move hmove]
  simp only [hostStep, hline]
  rfl

/-- A condition holds when its comparison comes out as `=` or `!=` asks (R82). -/
theorem HostCond.holds_iff (c : HostCond) (vars : List (Nat × BitVec 64)) :
    c.holds vars = true ↔ (c.lhs.eval vars = c.rhs.eval vars ↔ c.equal = true) := by
  rw [HostCond.holds, beq_iff_eq, Bool.eq_iff_iff, beq_iff_eq]

/-- A conditional jump, where `same` says its comparison: the jump as `goto` makes it, or the next line (R82). -/
theorem runLine_ifGoto_spec (c : HostCond) (k : Nat) (s : State) {same : Prop}
    (hsame : same ↔ c.lhs.eval s.host.vars = c.rhs.eval s.host.vars) :
    ((same ↔ c.equal = true) →
      (∀ i, s.host.program.findIdx? (· == .label k) = some i → runLine (.ifGoto c k) s = .next (s.setHostPc i)) ∧
        (s.host.program.findIdx? (· == .label k) = none → runLine (.ifGoto c k) s = .fault (.undefinedLabel k))) ∧
      (¬ (same ↔ c.equal = true) → runLine (.ifGoto c k) s = .next s) := by
  rw [hsame, ← HostCond.holds_iff]
  refine ⟨fun hc => ?_, fun hc => if_neg hc⟩
  have htaken : runLine (.ifGoto c k) s = jumpTo k s := if_pos hc
  rw [htaken]
  exact jumpTo_spec k s

/-- Settles O54: the line at the program counter runs in `pastLine`, and each form of line has its rule above. -/
theorem hostLinesDoWhatTheySay : Obligations.HostLinesDoWhatTheySay := by
  intro s rest hmove hvars
  refine ⟨fun hend => (step_of_host_move hmove).trans (hostStep_of_no_line hend), fun l hl => ?_⟩
  have hstep := step_of_host_line hmove hl
  cases l <;> simp only [find_getD_eq_getVar, hstep]
  case label k => rfl
  case write off v => rfl
  case sleep ms => rfl
  case goto k => exact jumpTo_spec k (s.pastLine rest)
  case read off x =>
    split
    · next hoff =>
      obtain ⟨r, hr⟩ := Reg.ofOffset_some hoff.1 hoff.2
      rw [hostReadAt_of_offset hr, runLine_read_of_offset hr]
      exact ⟨_, rfl, setHostVar_spec (s := (s.pastLine rest).withRead _) hvars x _⟩
    · next hoff => exact runLine_read_of_no_offset (Reg.ofOffset_none hoff) x _
  case ifGoto c k =>
    refine runLine_ifGoto_spec c k (s.pastLine rest) ?_
    obtain ⟨lhs, equal, n | g⟩ := c
    · exact Iff.rfl
    · exact Iff.rfl
  case pair x hi lo =>
    rw [← pairValue_eq]
    exact setHostVar_spec (s := s.pastLine rest) hvars x _
  case ret e =>
    cases e with
    | ok | value x | errorOf x => rfl
    | error k | errorIo k x => cases k <;> rfl

end Sys2Proof.Machine
end

section
/-! PROOFS. The line levels of a byte (30_encoding.md R76), by induction on its bits. -/

namespace Sys2Proof.Machine

/-- SDA moves only while SCL is low, whatever bits follow on a low SCL (R76). -/
theorem sdaMoves_bits (sda : Bool) (bits : List Bool) : sdaMoves (⟨false, sda⟩ :: bits.flatMap bitLevels) = [] := by
  induction bits generalizing sda with
  | nil => rfl
  | cons b bits ih => simp [bitLevels, sdaMoves, ih]

/-- A receiver samples each bit once, in order (R76). -/
theorem sampled_bits (sda : Bool) (bits : List Bool) : sampled (⟨false, sda⟩ :: bits.flatMap bitLevels) = bits := by
  induction bits generalizing sda with
  | nil => rfl
  | cons b bits ih => simp [bitLevels, sampled, ih]

theorem sdaMoves_flatMap_bitLevels (bits : List Bool) : sdaMoves (bits.flatMap bitLevels) = [] := by
  cases bits with
  | nil => rfl
  | cons b bits => simp [bitLevels, sdaMoves, sdaMoves_bits]

theorem sampled_flatMap_bitLevels (bits : List Bool) : sampled (bits.flatMap bitLevels) = bits := by
  cases bits with
  | nil => rfl
  | cons b bits => simp [bitLevels, sampled, sampled_bits]

/-- Settles O53: START and STOP are the two moves of SDA, and a byte is nine bits, none of which moves it. -/
theorem lineLevelsOfTheSymbols : Obligations.LineLevelsOfTheSymbols := by
  refine ⟨rfl, rfl, rfl, fun b m => ⟨?_, ?_⟩, fun b => ⟨rfl, rfl⟩⟩
  · exact congrArg some (sdaMoves_flatMap_bitLevels _)
  · have hbits : byteBits b ++ [m.bit] = [b.getLsbD 7, b.getLsbD 6, b.getLsbD 5, b.getLsbD 4, b.getLsbD 3,
        b.getLsbD 2, b.getLsbD 1, b.getLsbD 0, m == .nack] := by cases m <;> rfl
    rw [← hbits]
    exact congrArg some (sampled_flatMap_bitLevels _)

end Sys2Proof.Machine
end

section
/-! PROOFS. OPEN and CLOSE, and the launch of the bus commands (40_i2c_engine.md R100, R101, R102). -/

namespace Sys2Proof.Machine

/-- On an open bus a bus command starts the engine (R102). -/
theorem launchBus_of_open {s : State} (ho : s.blk.status.isOpen = true) (op : BitVec 4) (wb : Byte) (n : BitVec 2) :
    s.launchBus op wb n = { s with blk := s.blk.startEngine op wb n } := if_pos ho

/-- Settles O14: OPEN is one write of the flag and a completion. -/
theorem openOpensTheBus : Obligations.OpenOpensTheBus := fun _ => rfl

/-- OPEN written as it stands changes nothing. -/
theorem Status.withOpen_of_eq {t : Status} {o : Bool} (h : t.isOpen = o) : t.withOpen o = t := by subst h; rfl

/-- Settles O15: on a closed bus the flag is clear as it is. -/
theorem closeClosesTheBus : Obligations.CloseClosesTheBus := by
  intro s
  cases ho : s.blk.status.isOpen with
  | true =>
    simp only [exec, execClose, ho, if_true]
    rfl
  | false =>
    have hclear : (s.setOpen false).complete 6 0 = s.complete 6 0 := by
      rw [State.setOpen, Status.withOpen_of_eq ho]
    simp only [exec, execClose, ho, if_false, Bool.false_eq_true]
    exact congrArg _ hclear.symm

/-- Settles O39: each of the three is `launchBus`. -/
theorem busCommandsStartTheEngine : Obligations.BusCommandsStartTheEngine := fun _ ho =>
  ⟨fun _ => congrArg _ (launchBus_of_open ho ..), fun _ _ => congrArg _ (launchBus_of_open ho ..),
    fun _ => congrArg _ (launchBus_of_open ho ..)⟩

end Sys2Proof.Machine
end

section
/-! PROOFS. One engine step: when there is one, what a lost arbitration, a NACKed write byte and a completion do
(40_i2c_engine.md R103, R106, R109, R111, R112, R113). -/

namespace Sys2Proof.Machine

/-- When the engine has no step (R103, R106). -/
theorem engineEnabled_eq_false_iff (s : State) :
    s.engineEnabled = false ↔ s.blk.eng.phase = .idle ∨ s.partner.holdsScl = true := by
  unfold State.engineEnabled
  cases s.blk.eng.phase <;> cases s.partner.holdsScl <;> decide

/-- Without a step the engine stays where it is. -/
theorem engineRun_disabled {s : State} (h : s.engineEnabled = false) (k : Nat) : engineRun k s = s := by
  induction k with
  | zero => rfl
  | succ k ih => rw [engineRun, engineStep_disabled h, ih]

/-- A step that changes the phase is one the engine has. -/
theorem engineStep_of_completion {s : State} (hrun : s.blk.eng.phase = .run)
    (hidle : (engineStep s).blk.eng.phase = .idle) : engineStep s = s.engineSymbol := by
  refine engineStep_enabled (Bool.eq_true_of_not_eq_false fun h => ?_)
  rw [engineStep_disabled h, hrun] at hidle
  cases hidle

/-- With no turn listed the engine moves where it has a step (R8, assumption 2). -/
theorem step_of_no_turn_enabled {s : State} (hs : s.turns = []) (he : s.engineEnabled = true) :
    step s = .next (engineStep s) := by simp only [step, takeTurn, hs, idleTurn, he, if_true]

/-- Settles O40: the symbol is that of `engineSymbol_cases`, and only its last two cases complete. -/
theorem anEngineStepIsOneSymbol : Obligations.AnEngineStepIsOneSymbol := by
  refine ⟨fun s hrun hscl => ?_, fun s k hno => engineRun_disabled ((engineEnabled_eq_false_iff s).mpr hno) k,
    fun s rest => step_of_turns_cons, fun s hs => ⟨fun hrun hscl => ?_, fun hno => ?_⟩⟩
  · rw [engineStep_enabled ((engineEnabled_iff s).mpr ⟨hrun, hscl⟩)]
    rcases engineSymbol_cases s with ⟨e, y, hblk, hph, hbus, hstop, htx, hrx⟩ | ⟨y, hblk, -, hbus, hlost⟩ |
      ⟨-, hbus, ⟨-, hblk⟩ | ⟨-, hblk⟩ | ⟨-, -, hblk⟩⟩
    · have hne : ¬ (y = .stop ∨ (∃ b, y = .tx b .arb) ∨ y = .rxArb) := by
        rintro (h | ⟨b, h⟩ | h)
        exacts [hstop h, htx b h, hrx h]
      exact ⟨y, by rw [hbus], by simp [hblk, hph, hrun, hne]⟩
    · exact ⟨y, by rw [hbus], by simp [hblk, hlost]⟩
    all_goals exact ⟨.stop, by rw [hbus], by simp [hblk]⟩
  · exact step_of_no_turn_enabled hs ((engineEnabled_iff s).mpr ⟨hrun, hscl⟩)
  · exact (step_of_host_move (.inr ⟨hs, rfl, hno⟩)).trans
      (step_of_turns_cons (s := { s with turns := [.host] }) rfl).symm

/-- Settles O42: a completion with ERR = 3 is none that delivers. -/
theorem failureLeavesData : Obligations.FailureLeavesData := by
  intro s hinv hrun hidle herr
  obtain ⟨-, -, -, hnb⟩ := hinv.runClear hrun
  have hsym := engineStep_of_completion hrun hidle
  rw [hsym] at herr hidle ⊢
  rcases engineSymbol_cases s with ⟨e, y, hblk, hph, -⟩ | ⟨y, hblk, -⟩ |
    ⟨-, -, ⟨-, hblk⟩ | ⟨-, hblk⟩ | ⟨-, -, hblk⟩⟩ <;>
    rw [hblk] at herr hidle ⊢
  · rw [hph, hrun] at hidle
    cases hidle
  · exact ⟨rfl, hnb, hnb⟩
  · exact ⟨rfl, hnb, hnb⟩
  · exact ⟨rfl, hnb, hnb⟩
  · exact absurd herr (by simp)

section
variable {s : State}

/-- What `tx` and `rx` return where arbitration is lost (R104, R111). -/
theorem results_of_lost (hposs : s.cfg.arbPossible = true) (hlost : s.answer.arb = true) :
    s.txResult = .arb ∧ s.rxResult = none := by
  simp only [State.txResult, State.rxResult, hposs, hlost, Bool.and_self, if_true, and_self]

/-- What `tx` returns where arbitration is not lost: the partner's acknowledge bit (R104). -/
theorem txResult_of_kept (h : s.cfg.arbPossible = false ∨ s.answer.arb = false) :
    (s.answer.ack = .ack → s.txResult = .ack) ∧ (s.answer.ack = .nack → s.txResult = .nack) := by
  have hkept : (s.cfg.arbPossible && s.answer.arb) = false := by rcases h with h | h <;> simp [h]
  constructor <;> intro ha <;> simp only [State.txResult, hkept, ha, Bool.false_eq_true, if_false]

/-- What `rx` returns where arbitration is not lost: the partner's byte (R104). -/
theorem rxResult_of_kept (h : s.answer.arb = false) : s.rxResult = some s.answer.byte := by
  simp only [State.rxResult, h, Bool.and_false, Bool.false_eq_true, if_false]

/-- An engine that stands before a STOP emits it (R105). -/
theorem engineStep_of_stop (hrun : s.blk.eng.phase = .run) (hscl : s.partner.holdsScl = false)
    (hs : s.blk.eng.step = .stop) : engineStep s = s.engineStop := by
  rw [engineStep_enabled ((engineEnabled_iff s).mpr ⟨hrun, hscl⟩), State.engineSymbol, hs]

theorem engineWdata_of_ack (h : s.txResult = .ack) :
    s.engineWdata = (s.useAnswer.emit (.tx s.blk.eng.wbyte .ack) true).setEng s.blk.eng.segmentDone := by
  simp only [State.engineWdata, h]

theorem engineWdata_of_nack (h : s.txResult = .nack) :
    s.engineWdata =
      (s.useAnswer.emit (.tx s.blk.eng.wbyte .nack) true).setEng
        { s.blk.eng with step := .stop, why := .dataNack } := by
  simp only [State.engineWdata, h]

/-- A symbol in which arbitration is lost, in whatever phase (R111). -/
theorem engineSymbol_of_lost (hposs : s.cfg.arbPossible = true) (hlost : s.answer.arb = true)
    (hphase : s.blk.eng.step = .addr ∨ s.blk.eng.step = .wdata ∨ s.blk.eng.step = .rdata) :
    ∃ y : Symbol, ((∃ b, y = .tx b .arb) ∨ y = .rxArb) ∧ s.engineSymbol = s.loseArbitration y := by
  obtain ⟨htx, hrx⟩ := results_of_lost hposs hlost
  rcases hphase with hs | hs | hs
  · refine ⟨.tx (addressByte s.blk.eng.addr (isReadSegment s.blk.eng.op s.blk.eng.seg)) .arb, .inl ⟨_, rfl⟩, ?_⟩
    simp only [State.engineSymbol, hs, State.engineAddr, htx]
  · refine ⟨.tx s.blk.eng.wbyte .arb, .inl ⟨_, rfl⟩, ?_⟩
    simp only [State.engineSymbol, hs, State.engineWdata, htx]
  · exact ⟨_, .inr rfl, by simp only [State.engineSymbol, hs, State.engineRdata, hrx]⟩

end

/-- Settles O49: a lost byte is `loseArbitration`, and no other completion has IOCODE = 3. -/
theorem arbitrationLossEndsTheCommand : Obligations.ArbitrationLossEndsTheCommand := by
  refine ⟨fun s hrun hscl hposs hlost hphase => ?_, fun s himposs hrun hidle => ?_⟩
  · rw [engineStep_enabled ((engineEnabled_iff s).mpr ⟨hrun, hscl⟩)]
    obtain ⟨y, hy, heq⟩ := engineSymbol_of_lost hposs hlost hphase
    rw [heq]
    exact ⟨by simp only [State.loseArbitration, State.raise_blk, State.emit_blk, State.useAnswer_blk]; rfl, rfl, y, hy,
      by simp only [State.loseArbitration, State.raise_bus, State.emit_bus, State.useAnswer_bus]⟩
  · have hsym := engineStep_of_completion hrun hidle
    rw [hsym] at hidle ⊢
    rcases engineSymbol_cases s with ⟨e, y, hblk, hph, -⟩ | ⟨y, -, hposs, -⟩ |
      ⟨-, -, ⟨-, hblk⟩ | ⟨-, hblk⟩ | ⟨-, -, hblk⟩⟩
    · rw [hblk, hph, hrun] at hidle
      cases hidle
    · rw [himposs] at hposs
      cases hposs
    all_goals simp [hblk]

/-- Settles O48: the step of the ACK is `segmentDone`'s, that of the NACK leads to the STOP of IOCODE 2. -/
theorem writeDataNackIsNotRetried : Obligations.WriteDataNackIsNotRetried := by
  intro s hrun hscl hs hkept
  obtain ⟨hackResult, hnackResult⟩ := txResult_of_kept hkept
  have hstep : engineStep s = s.engineWdata := by
    rw [engineStep_enabled ((engineEnabled_iff s).mpr ⟨hrun, hscl⟩), State.engineSymbol, hs]
  refine ⟨fun hack => ?_, fun hnack => ?_⟩
  · rw [hstep, engineWdata_of_ack (hackResult hack)]
    refine ⟨by simp only [State.setEng, State.emit_blk, State.useAnswer_blk], ?_, by simp [asEvents], ?_⟩
    · rw [State.setEng_blk_eng, Eng.segmentDone]
      split <;> exact hrun
    · simp only [State.setEng_blk_eng, Eng.segmentDone, hasNextSegment_iff]
      split <;> exact ⟨rfl, rfl, rfl⟩
  · have hnext := hstep.trans (engineWdata_of_nack (hnackResult hnack))
    have htwo : engineRun 2 s = engineStep (engineStep s) := rfl
    rw [htwo, hnext]
    refine ⟨hrun, ?_⟩
    rw [engineStep_of_stop, engineStop_of_dataNack]
    · exact ⟨rfl, by simp, by simp; rfl, by simp [asEvents]⟩
    · rfl
    · exact hrun
    · simpa using hscl
    · rfl

/-- A read command's success writes DATA and NBYTES (R112). -/
theorem Block.deliver_of_read {b : Block} (h : b.eng.op = 0x4 ∨ b.eng.op = 0x5) :
    b.deliver = { b with data := receivedPayload b.eng, status := { b.status with nbytes := b.eng.rlen } } := if_pos h

/-- XFER.W's success writes neither (R112). -/
theorem Block.deliver_of_write {b : Block} (h : ¬ (b.eng.op = 0x4 ∨ b.eng.op = 0x5)) : b.deliver = b := if_neg h

/-- Settles O50: the STOP of success delivers, the bytes at their places in the payload. -/
theorem successDeliversTheBytes : Obligations.SuccessDeliversTheBytes := by
  intro s hrun hscl hs hwhy
  have hend : (engineStep s).blk = s.blk.deliver.complete 0 0 := by
    rw [engineStep_of_stop hrun hscl hs, engineStop_of_success hwhy]
    rfl
  rw [hend]
  refine ⟨rfl, rfl, rfl, rfl, rfl, ?_⟩
  by_cases hread : s.blk.eng.op = 0x4#4 ∨ s.blk.eng.op = 0x5#4
  · rw [if_pos hread, Block.deliver_of_read hread]
    exact ⟨rfl, byte0_payload .., byte1_payload .., byte2_payload ..⟩
  · rw [if_neg hread, Block.deliver_of_write hread]
    exact ⟨rfl, rfl⟩

end Sys2Proof.Machine
end

section
/-! PROOFS. Whole transactions (40_i2c_engine.md R105): a run of the engine over listed answers is put together of the
address phase with its retries, the write byte, the read bytes and the STOP. -/

namespace Sys2Proof.Machine

/-- `s` further on in a transaction: the symbols `ys` produced, the answers `as` not yet used, the engine at `e`, the
lines held or not. -/
def State.said (s : State) (held : Bool) (ys : List Symbol) (as : List Answer) (e : Eng) : State :=
  { s with
    blk := { s.blk with eng := e }
    bus := ⟨held, s.bus.trace ++ asEvents ys⟩
    partner := { s.partner with answers := as } }

/-- `s` with the bytes of a read delivered (R112). -/
def State.delivered (s : State) (d : BitVec 24) (n : BitVec 2) : State :=
  { s with blk := { s.blk with data := d, status := { s.blk.status with nbytes := n } } }

section
variable (s : State) (held : Bool) (ys : List Symbol) (as : List Answer) (e : Eng)

@[simp] theorem State.said_eng : (s.said held ys as e).blk.eng = e := rfl
@[simp] theorem State.said_holdsScl : (s.said held ys as e).partner.holdsScl = s.partner.holdsScl := rfl

/-- One symbol more. -/
theorem State.said_emit (y : Symbol) (held' : Bool) (e' : Eng) :
    ((s.said held ys as e).emit y held').setEng e' = s.said held' (ys ++ [y]) as e' := by
  simp [said, State.emit, State.setEng, asEvents]

theorem State.said_stop : (s.said held ys as e).emit .stop false = s.said false (ys ++ [.stop]) as e :=
  s.said_emit held ys as e .stop false e

/-- One symbol more, that uses an answer up. -/
theorem State.said_useAnswer_emit (a : Answer) (y : Symbol) (e' : Eng) :
    ((s.said held ys (a :: as) e).useAnswer.emit y true).setEng e' = s.said true (ys ++ [y]) as e' := by
  simp [said, State.useAnswer, State.emit, State.setEng, asEvents]

/-- What an answer of `addressAnswers` or `byteAnswer` makes of `tx` and `rx` (R104). -/
theorem State.said_results (b : Byte) :
    (s.said held ys (ackAnswer :: as) e).txResult = .ack ∧ (s.said held ys (nackAnswer :: as) e).txResult = .nack ∧
      (s.said held ys (byteAnswer b :: as) e).rxResult = some b :=
  ⟨(txResult_of_kept (.inr rfl)).1 rfl, (txResult_of_kept (.inr rfl)).2 rfl, rxResult_of_kept rfl⟩

end

/-! The rule of each symbol, while SCL is not held. -/

section
variable {s : State} {held : Bool} {ys : List Symbol} {as : List Answer} {e : Eng}
variable (hscl : s.partner.holdsScl = false) (hrun : e.phase = .run)
include hscl hrun

theorem engineStep_said : engineStep (s.said held ys as e) = (s.said held ys as e).engineSymbol :=
  engineStep_enabled ((engineEnabled_iff _).mpr ⟨hrun, hscl⟩)

/-- A START (R105, R110). -/
theorem engineStep_said_start (hs : e.step = .start) :
    engineStep (s.said held ys as e) =
      s.said true (ys ++ [if e.seg = 0 ∧ e.why = .segment then .start else .repStart]) as
        { e with left := if e.why = .segment then e.retry else e.left, step := .addr } := by
  rw [engineStep_said hscl hrun, State.engineSymbol, State.said_eng, hs]
  exact State.said_emit ..

/-- An address byte ACKed (R105). -/
theorem engineStep_said_addr_ack (hs : e.step = .addr) :
    engineStep (s.said held ys (ackAnswer :: as) e) =
      s.said true (ys ++ [.tx (addressByte e.addr (isReadSegment e.op e.seg)) .ack]) as e.dataPhase := by
  obtain ⟨hack, -, -⟩ := s.said_results held ys as e 0
  simp only [engineStep_said hscl hrun, State.engineSymbol, State.said_eng, hs, State.engineAddr, hack]
  exact State.said_useAnswer_emit ..

/-- An address byte NACKed (R108). -/
theorem engineStep_said_addr_nack (hs : e.step = .addr) :
    engineStep (s.said held ys (nackAnswer :: as) e) =
      s.said true (ys ++ [.tx (addressByte e.addr (isReadSegment e.op e.seg)) .nack]) as e.addressNacked := by
  obtain ⟨-, hnack, -⟩ := s.said_results held ys as e 0
  simp only [engineStep_said hscl hrun, State.engineSymbol, State.said_eng, hs, State.engineAddr, hnack]
  exact State.said_useAnswer_emit ..

/-- A write byte ACKed (R105). -/
theorem engineStep_said_wdata_ack (hs : e.step = .wdata) :
    engineStep (s.said held ys (ackAnswer :: as) e) = s.said true (ys ++ [.tx e.wbyte .ack]) as e.segmentDone := by
  obtain ⟨hack, -, -⟩ := s.said_results held ys as e 0
  rw [engineStep_said hscl hrun, State.engineSymbol, State.said_eng, hs]
  exact (engineWdata_of_ack hack).trans (State.said_useAnswer_emit ..)

/-- A byte received (R105, R114). -/
theorem engineStep_said_rdata (hs : e.step = .rdata) (b : Byte) :
    engineStep (s.said held ys (byteAnswer b :: as) e) =
      s.said true (ys ++ [.rx b (masterAck e.idx e.rlen)]) as (e.byteDone b) := by
  obtain ⟨-, -, hbyte⟩ := s.said_results held ys as e b
  simp only [engineStep_said hscl hrun, State.engineSymbol, State.said_eng, hs, State.engineRdata, hbyte]
  exact State.said_useAnswer_emit ..

theorem engineStep_said_stop (hs : e.step = .stop) :
    engineStep (s.said held ys as e) = (s.said held ys as e).engineStop :=
  engineStep_of_stop (s := s.said held ys as e) hrun hscl hs

/-- The STOP of an address byte NACKed too often (R108). -/
theorem engineStep_said_stop_addrNack (hs : e.step = .stop) (hwhy : e.why = .addrNack) :
    engineStep (s.said held ys as e) = (s.said false (ys ++ [.stop]) as e).complete 3 1 := by
  rw [engineStep_said_stop hscl hrun hs, engineStop_of_addrNack hwhy, State.said_stop]
  rfl

/-- The STOP of a write command's success: nothing is delivered (R112). -/
theorem engineStep_said_stop_write (hs : e.step = .stop) (hwhy : e.why = .success)
    (hop : ¬ (e.op = 0x4 ∨ e.op = 0x5)) :
    engineStep (s.said held ys as e) = (s.said false (ys ++ [.stop]) as e).complete 0 0 := by
  rw [engineStep_said_stop hscl hrun hs, engineStop_of_success hwhy, Block.deliver_of_write hop, State.said_stop]
  rfl

/-- The STOP of a read command's success: the bytes received are delivered (R112). -/
theorem engineStep_said_stop_read (hs : e.step = .stop) (hwhy : e.why = .success) (hop : e.op = 0x4 ∨ e.op = 0x5) :
    engineStep (s.said held ys as e) =
      ((s.delivered (receivedPayload e) e.rlen).said false (ys ++ [.stop]) as e).complete 0 0 := by
  rw [engineStep_said_stop hscl hrun hs, engineStop_of_success hwhy, Block.deliver_of_read hop, State.said_stop]
  rfl

end

end Sys2Proof.Machine
end

section
/-! PROOFS. The parts of a transaction and the three bus commands on an answering device (40_i2c_engine.md R105, R108,
R110, R112, R114, R120 to R123). -/

namespace Sys2Proof.Machine

/-- A run one step longer. -/
theorem engineRun_succ (k : Nat) (s : State) : engineRun (k + 1) s = engineStep (engineRun k s) := engineRun_add k 1 s

/-- A run and one step more. -/
theorem engineRun_step {k : Nat} {s t u : State} (ht : engineRun k s = t) (hu : engineStep t = u) :
    engineRun (k + 1) s = u := by rw [engineRun_succ, ht, hu]

/-- Two runs, one after the other. -/
theorem engineRun_trans {j k : Nat} {s t u : State} (hj : engineRun j s = t) (hk : engineRun k t = u) :
    engineRun (j + k) s = u := by rw [engineRun_add, hj, hk]

/-- An engine that still runs has run all the time, since an idle one stays idle. -/
theorem engineRun_running_before {k m : Nat} {s : State} (h : (engineRun m s).blk.eng.phase = .run) (hk : k ≤ m) :
    (engineRun k s).blk.eng.phase = .run := by
  cases hp : (engineRun k s).blk.eng.phase with
  | run => rfl
  | idle =>
    have hstays : engineRun m s = engineRun k s := by
      rw [← Nat.add_sub_cancel' hk, engineRun_add]
      exact engineRun_disabled ((engineEnabled_eq_false_iff _).mpr (.inl hp)) _
    rw [hstays, hp] at h
    cases h

/-- A run up to an engine still running, and its one step more. -/
theorem engineRun_to_last {m : Nat} {s t u : State} (ht : engineRun m s = t) (hrun : t.blk.eng.phase = .run)
    (hu : engineStep t = u) :
    (∀ k, k < m + 1 → (engineRun k s).blk.eng.phase = .run) ∧ engineRun (m + 1) s = u :=
  ⟨fun _ hk => engineRun_running_before (ht ▸ hrun) (Nat.le_of_lt_succ hk), engineRun_step ht hu⟩

@[simp] theorem Eng.dataPhase_phase (e : Eng) : e.dataPhase.phase = e.phase := by
  unfold Eng.dataPhase
  split_ifs <;> rfl

section
variable {s : State} (hscl : s.partner.holdsScl = false)
include hscl

/-- A NACKed address byte with a retry left: the repeated START, and the address byte again (R108, R110). -/
theorem engineRun_retry {e : Eng} (hrun : e.phase = .run) (hl : e.left ≠ 0) (ys : List Symbol) (as : List Answer) :
    engineRun 2 (s.said true ys (nackAnswer :: as) { e with step := .addr }) =
      s.said true (ys ++ [.tx (addressByte e.addr (isReadSegment e.op e.seg)) .nack, .repStart]) as
        { e with left := e.left - 1, why := .retry, step := .addr } := by
  have hnack : Eng.addressNacked { e with step := .addr } =
      { e with left := e.left - 1, step := .start, why := .retry } := if_neg hl
  have hbyte := engineStep_said_addr_nack (held := true) (ys := ys) (as := as) (e := { e with step := .addr }) hscl
    hrun rfl
  rw [hnack] at hbyte
  have hstart := engineStep_said_start (held := true)
    (ys := ys ++ [.tx (addressByte e.addr (isReadSegment e.op e.seg)) .nack]) (as := as)
    (e := { e with left := e.left - 1, step := .start, why := .retry }) hscl hrun rfl
  refine (congrArg engineStep hbyte).trans (hstart.trans ?_)
  simp

/-- The address phase of an address byte NACKed r times and then ACKed, r within the budget (R105, R110). -/
theorem engineRun_address_acked (as : List Answer) (r : Nat) {e : Eng} (hrun : e.phase = .run)
    (hr : r ≤ e.left.toNat) (ys : List Symbol) :
    ∃ left why, engineRun (1 + 2 * r) (s.said true ys (addressAnswers r ++ as) { e with step := .addr }) =
      s.said true (ys ++ addressSymbols (addressByte e.addr (isReadSegment e.op e.seg)) r) as
        (Eng.dataPhase { e with left := left, why := why, step := .addr }) := by
  induction r generalizing e ys with
  | zero => exact ⟨e.left, e.why, engineStep_said_addr_ack hscl hrun rfl⟩
  | succ r ih =>
    have hl : e.left ≠ 0 := by bv_omega
    have hr' : r ≤ (e.left - 1).toNat := by bv_omega
    obtain ⟨left, why, hlast⟩ := ih (e := { e with left := e.left - 1, why := .retry }) hrun hr'
      (ys ++ [.tx (addressByte e.addr (isReadSegment e.op e.seg)) .nack, .repStart])
    refine ⟨left, why, ?_⟩
    rw [show 1 + 2 * (r + 1) = 2 + (1 + 2 * r) by omega]
    refine (engineRun_trans (engineRun_retry hscl hrun hl ys (addressAnswers r ++ as)) hlast).trans ?_
    rw [List.append_assoc]
    rfl

/-- The address phase of an address byte NACKed until the budget is spent, and its STOP (R108, R110). -/
theorem engineRun_address_refused (as : List Answer) (r : Nat) {e : Eng} (hrun : e.phase = .run)
    (hr : e.left.toNat = r) (ys : List Symbol) :
    ∃ e', engineRun (2 + 2 * r) (s.said true ys (List.replicate (r + 1) nackAnswer ++ as) { e with step := .addr }) =
      (s.said false (ys ++ addressRefused (addressByte e.addr (isReadSegment e.op e.seg)) r ++ [.stop]) as
        e').complete 3 1 := by
  induction r generalizing e ys with
  | zero =>
    have hnack : Eng.addressNacked { e with step := .addr } = { e with step := .stop, why := .addrNack } :=
      if_pos (BitVec.eq_of_toNat_eq hr)
    refine ⟨{ e with step := .stop, why := .addrNack }, ?_⟩
    have hbyte := engineStep_said_addr_nack (held := true) (ys := ys) (as := as) (e := { e with step := .addr }) hscl
      hrun rfl
    rw [hnack] at hbyte
    exact (congrArg engineStep hbyte).trans (engineStep_said_stop_addrNack hscl hrun rfl rfl)
  | succ r ih =>
    have hl : e.left ≠ 0 := by rintro h; simp [h] at hr
    have hr' : (e.left - 1).toNat = r := by bv_omega
    obtain ⟨e', hlast⟩ := ih (e := { e with left := e.left - 1, why := .retry }) hrun hr'
      (ys ++ [.tx (addressByte e.addr (isReadSegment e.op e.seg)) .nack, .repStart])
    refine ⟨e', ?_⟩
    rw [show 2 + 2 * (r + 1) = 2 + (2 + 2 * r) by omega]
    refine (engineRun_trans (engineRun_retry hscl hrun hl ys (List.replicate (r + 1) nackAnswer ++ as)) hlast).trans ?_
    rw [List.append_assoc ys]
    rfl

/-- The bytes of a read segment: the engine takes each in turn, the master's last acknowledge bit NACK (R105, R114). -/
theorem engineRun_read (as : List Answer) {bs : List Byte} (hne : bs ≠ []) {e : Eng} (hrun : e.phase = .run)
    (hs : e.step = .rdata) (hlen : e.idx.toNat + bs.length = e.rlen.toNat) (ys : List Symbol) :
    engineRun bs.length (s.said true ys (bs.map byteAnswer ++ as) e) =
      s.said true (ys ++ readSymbols bs) as (bs.foldl Eng.byteDone e) := by
  induction bs generalizing e ys with
  | nil => exact absurd rfl hne
  | cons b bs ih =>
    have hstep := engineStep_said_rdata (held := true) (ys := ys) (as := bs.map byteAnswer ++ as) hscl hrun hs b
    cases bs with
    | nil =>
      have hend : ¬ e.idx.toNat + 1 < e.rlen.toNat := by
        simp only [List.length_cons, List.length_nil] at hlen
        omega
      have hnack : masterAck e.idx e.rlen = .nack := if_neg hend
      rw [hnack] at hstep
      exact hstep
    | cons b' bs =>
      have hmore : e.idx.toNat + 1 < e.rlen.toNat := by
        simp only [List.length_cons] at hlen
        omega
      have hdone : e.byteDone b = { e.receive b with idx := e.idx + 1 } := if_pos hmore
      have hack : masterAck e.idx e.rlen = .ack := if_pos hmore
      rw [hack] at hstep
      have hrest := ih (by simp) (e := e.byteDone b) (by simp [hdone, hrun]) (by simp [hdone, Eng.receive_eq, hs])
        (by simp [hdone] at hlen ⊢; omega) (ys ++ [.rx b .ack])
      rw [List.append_assoc] at hrest
      exact (congrArg (engineRun (b' :: bs).length) hstep).trans hrest

end

/-- The engine after all bytes of a read: at the STOP of success, the bytes in their places (R105, R112). -/
theorem Eng.foldl_byteDone {bs : List Byte} {e : Eng} (hidx : e.idx = 0) (hn : e.rlen ≠ 0)
    (hlen : bs.length = e.rlen.toNat) :
    let e' := bs.foldl Eng.byteDone e;
    e'.phase = e.phase ∧ e'.step = .stop ∧ e'.why = .success ∧ e'.op = e.op ∧ e'.rlen = e.rlen ∧
      receivedPayload e' = payloadOf bs := by
  match bs with
  | [] => exact absurd (BitVec.eq_of_toNat_eq hlen.symm) hn
  | [a] =>
    have hr : e.rlen.toNat = 1 := hlen.symm
    simp [Eng.byteDone, Eng.receive_eq, receivedPayload, payloadOf, hidx, hr]
  | [a, b] =>
    have hr : e.rlen.toNat = 2 := hlen.symm
    simp [Eng.byteDone, Eng.receive_eq, receivedPayload, payloadOf, hidx, hr]
  | [a, b, c] =>
    have hr : e.rlen.toNat = 3 := hlen.symm
    simp [Eng.byteDone, Eng.receive_eq, receivedPayload, payloadOf, hidx, hr]
  | a :: b :: c :: d :: bs =>
    have hlt := e.rlen.isLt
    simp at hlen
    omega

end Sys2Proof.Machine
end

section
/-! PROOFS. The three bus commands on an answering device, and on one that NACKs its address (40_i2c_engine.md R105,
R108, R110, R112, R120 to R123). -/

namespace Sys2Proof.Machine

/-- A command with a read segment is XFER.WR or XFER.R (R105). -/
theorem op_of_read {op : BitVec 4} {seg : BitVec 1} (h : isReadSegment op seg = true) : op = 0x4 ∨ op = 0x5 := by
  revert op seg
  decide

section
variable {s : State} (hscl : s.partner.holdsScl = false)
include hscl

/-- The START of a launched command (R102, R105). -/
theorem engineStep_launched (op : BitVec 4) (wb : Byte) (n : BitVec 2) :
    engineStep { s with blk := s.blk.startEngine op wb n } =
      s.said true [.start] s.partner.answers
        { (s.blk.startEngine op wb n).eng with left := s.blk.ctrl.retry, step := .addr } := by
  have hlaunched : { s with blk := s.blk.startEngine op wb n } =
      s.said s.bus.held [] s.partner.answers (s.blk.startEngine op wb n).eng := by
    simp only [State.said, asEvents, List.map_nil, List.append_nil]
    rfl
  rw [hlaunched]
  exact engineStep_said_start (e := (s.blk.startEngine op wb n).eng) hscl rfl rfl

/-- A launched command whose first address byte is NACKed r times and then ACKed (R105, R110). -/
theorem engineRun_launched_acked (op : BitVec 4) (wb : Byte) (n : BitVec 2) {as : List Answer} {r : Nat}
    (hr : r ≤ s.blk.ctrl.retry.toNat) (ha : s.partner.answers = addressAnswers r ++ as) :
    ∃ left why, engineRun (1 + (1 + 2 * r)) { s with blk := s.blk.startEngine op wb n } =
      s.said true (.start :: addressSymbols (addressByte s.blk.ctrl.addr (isReadSegment op 0)) r) as
        (Eng.dataPhase { (s.blk.startEngine op wb n).eng with left := left, why := why, step := .addr }) := by
  have hstart := engineStep_launched hscl op wb n
  rw [ha] at hstart
  obtain ⟨left, why, hacked⟩ := engineRun_address_acked hscl as r
    (e := { (s.blk.startEngine op wb n).eng with left := s.blk.ctrl.retry }) rfl hr [.start]
  exact ⟨left, why, engineRun_trans hstart hacked⟩

/-- A launched command whose first address byte is NACKed until the budget is spent (R108, R110). -/
theorem engineRun_launched_refused (op : BitVec 4) (wb : Byte) (n : BitVec 2) {as : List Answer}
    (ha : s.partner.answers = List.replicate (s.blk.ctrl.retry.toNat + 1) nackAnswer ++ as) :
    ∃ e', engineRun (3 + 2 * s.blk.ctrl.retry.toNat) { s with blk := s.blk.startEngine op wb n } =
      (s.said false (.start :: addressRefused (addressByte s.blk.ctrl.addr (isReadSegment op 0))
        s.blk.ctrl.retry.toNat ++ [.stop]) as e').complete 3 1 := by
  have hstart := engineStep_launched hscl op wb n
  rw [ha] at hstart
  obtain ⟨e', hrefused⟩ := engineRun_address_refused hscl as s.blk.ctrl.retry.toNat
    (e := { (s.blk.startEngine op wb n).eng with left := s.blk.ctrl.retry }) rfl rfl [.start]
  refine ⟨e', ?_⟩
  rw [show 3 + 2 * s.blk.ctrl.retry.toNat = 1 + (2 + 2 * s.blk.ctrl.retry.toNat) by omega]
  exact engineRun_trans hstart hrefused

/-- A launched command whose first segment is a write, up to the ACK of its byte (R105). -/
theorem engineRun_launched_write (op : BitVec 4) (wb : Byte) (n : BitVec 2) (hw : isReadSegment op 0 = false)
    {as : List Answer} {r : Nat} (hr : r ≤ s.blk.ctrl.retry.toNat)
    (ha : s.partner.answers = addressAnswers r ++ ackAnswer :: as) :
    ∃ left why, engineRun (3 + 2 * r) { s with blk := s.blk.startEngine op wb n } =
      s.said true (.start :: addressSymbols (addressByte s.blk.ctrl.addr false) r ++ [.tx wb .ack]) as
        (Eng.segmentDone { (s.blk.startEngine op wb n).eng with left := left, why := why, step := .wdata }) := by
  obtain ⟨left, why, hacked⟩ := engineRun_launched_acked hscl op wb n hr ha
  have hdata : Eng.dataPhase { (s.blk.startEngine op wb n).eng with left := left, why := why, step := .addr } =
      { (s.blk.startEngine op wb n).eng with left := left, why := why, step := .wdata } :=
    if_neg (Bool.eq_false_iff.mp hw)
  rw [hw, hdata] at hacked
  refine ⟨left, why, ?_⟩
  rw [show 3 + 2 * r = 1 + (1 + 2 * r) + 1 by omega]
  exact engineRun_step hacked (engineStep_said_wdata_ack hscl rfl rfl)

/-- XFER.WR up to the address byte of its read segment, the budget full again (R105, R110). -/
theorem engineRun_launched_xferWR (wb : Byte) (n : BitVec 2) {as : List Answer} {r : Nat}
    (hr : r ≤ s.blk.ctrl.retry.toNat) (ha : s.partner.answers = addressAnswers r ++ ackAnswer :: as) :
    engineRun (4 + 2 * r) { s with blk := s.blk.startEngine 0x4 wb n } =
      s.said true (.start :: addressSymbols (addressByte s.blk.ctrl.addr false) r ++ [.tx wb .ack, .repStart]) as
        { (s.blk.startEngine 0x4 wb n).eng with left := s.blk.ctrl.retry, seg := 1, step := .addr } := by
  obtain ⟨left, why, hwritten⟩ := engineRun_launched_write hscl 0x4 wb n rfl hr ha
  rw [show 4 + 2 * r = 3 + 2 * r + 1 by omega]
  refine (engineRun_step hwritten (engineStep_said_start hscl rfl rfl)).trans ?_
  rw [List.append_assoc]
  rfl

/-- The read segment that ends a command, its address byte ACKed: the bytes, and the STOP that delivers them (R112). -/
theorem engineRun_read_to_end {j : Nat} {t : State} {ys : List Symbol} {bs : List Byte} {as : List Answer} {e : Eng}
    (hj : engineRun j t = s.said true ys (bs.map byteAnswer ++ as) e.dataPhase) (hrun : e.phase = .run)
    (hread : isReadSegment e.op e.seg = true) (hn : e.rlen ≠ 0) (hlen : bs.length = e.rlen.toNat) :
    (∀ k, k < j + bs.length + 1 → (engineRun k t).blk.eng.phase = .run) ∧
      ∃ e', engineRun (j + bs.length + 1) t =
        ((s.delivered (payloadOf bs) e.rlen).said false (ys ++ readSymbols bs ++ [.stop]) as e').complete 0 0 := by
  have hdata : e.dataPhase = { e with idx := 0, step := .rdata } := by rw [Eng.dataPhase, if_pos hread, if_neg hn]
  have hne : bs ≠ [] := by
    rintro rfl
    exact hn (BitVec.eq_of_toNat_eq hlen.symm)
  have hbytes := engineRun_read hscl as hne (e := { e with idx := 0, step := .rdata }) hrun rfl (by simpa using hlen) ys
  rw [← hdata] at hbytes
  obtain ⟨hphase, hstop, hwhy, hop, hrlen, hpayload⟩ := Eng.foldl_byteDone (e := e.dataPhase) (by rw [hdata])
    (by rw [hdata]; exact hn) (by rw [hdata]; exact hlen)
  have hrun' : (bs.foldl Eng.byteDone e.dataPhase).phase = .run := by rw [hphase, Eng.dataPhase_phase, hrun]
  have hop' : (bs.foldl Eng.byteDone e.dataPhase).op = 0x4 ∨ (bs.foldl Eng.byteDone e.dataPhase).op = 0x5 := by
    rw [hop, hdata]
    exact op_of_read hread
  have hlast := engineStep_said_stop_read (held := true) (ys := ys ++ readSymbols bs) (as := as) hscl hrun' hstop hwhy
    hop'
  obtain ⟨hrunning, hend⟩ := engineRun_to_last (engineRun_trans hj hbytes) hrun' hlast
  rw [hpayload, hrlen, hdata] at hend
  exact ⟨hrunning, _, hend⟩

end

/-- Settles O43: the STOP comes after the write segment. -/
theorem xferWSucceeds : Obligations.XferWSucceeds := by
  intro s wb r rest ho hscl hr ha
  obtain ⟨left, why, hwritten⟩ := engineRun_launched_write hscl 0x3 wb 0 rfl hr ha
  obtain ⟨hrunning, hend⟩ := engineRun_to_last hwritten rfl
    (engineStep_said_stop_write hscl rfl rfl rfl (show ¬ (0x3#4 = 0x4 ∨ 0x3#4 = 0x5) by decide))
  rw [show 4 + 2 * r = 3 + 2 * r + 1 by omega]
  refine ⟨_, congrArg Host.Outcome.next (launchBus_of_open ho ..), hrunning, ?_⟩
  rw [hend, List.append_assoc]
  exact ⟨rfl, rfl⟩

/-- Settles O45: the read segment is the first. -/
theorem xferRSucceeds : Obligations.XferRSucceeds := by
  intro s n bs r rest ho hscl hn hlen hr ha
  obtain ⟨left, why, hacked⟩ := engineRun_launched_acked hscl 0x5 0 n hr ha
  obtain ⟨hrunning, e', hend⟩ := engineRun_read_to_end hscl hacked rfl rfl hn hlen
  rw [show 3 + n.toNat + 2 * r = 1 + (1 + 2 * r) + bs.length + 1 by omega]
  refine ⟨_, congrArg Host.Outcome.next (launchBus_of_open ho ..), hrunning, ?_⟩
  rw [hend]
  exact ⟨rfl, rfl⟩

/-- Settles O44: the read segment comes after the write segment, with its own retries. -/
theorem xferWRSucceeds : Obligations.XferWRSucceeds := by
  intro s wb n bs r q rest ho hscl hn hlen hr hq ha
  have hwritten := engineRun_launched_xferWR hscl wb n hr ha
  obtain ⟨left, why, hacked⟩ := engineRun_address_acked hscl (bs.map byteAnswer ++ rest) q
    (e := { (s.blk.startEngine 0x4 wb n).eng with left := s.blk.ctrl.retry, seg := 1 }) rfl hq
    (.start :: addressSymbols (addressByte s.blk.ctrl.addr false) r ++ [.tx wb .ack, .repStart])
  obtain ⟨hrunning, e', hend⟩ := engineRun_read_to_end hscl (engineRun_trans hwritten hacked) rfl rfl hn hlen
  rw [show 6 + n.toNat + 2 * (r + q) = 4 + 2 * r + (1 + 2 * q) + bs.length + 1 by omega]
  refine ⟨_, congrArg Host.Outcome.next (launchBus_of_open ho ..), hrunning, ?_⟩
  rw [hend]
  exact ⟨rfl, rfl⟩

/-- The three bus commands are launched alike, each with its opcode (R102, R120 to R122). -/
theorem exec_eq_launchBus (s : State) {i : Instr}
    (hi : (∃ wb, i = .xferW wb) ∨ (∃ wb n, i = .xferWR wb n) ∨ ∃ n, i = .xferR n) :
    ∃ wb n, exec i s = .next (s.launchBus (opcode i) wb n) := by
  rcases hi with ⟨wb, rfl⟩ | ⟨wb, n, rfl⟩ | ⟨n, rfl⟩
  exacts [⟨wb, 0, rfl⟩, ⟨wb, n, rfl⟩, ⟨0, n, rfl⟩]

/-- Settles O46: the three commands begin with the same address phase. -/
theorem addressNackSpendsTheBudget : Obligations.AddressNackSpendsTheBudget := by
  intro s i rest ho hscl hi ha
  obtain ⟨wb, n, hexec⟩ := exec_eq_launchBus s hi
  obtain ⟨e', hend⟩ := engineRun_launched_refused hscl (opcode i) wb n ha
  refine ⟨_, hexec.trans (congrArg Host.Outcome.next (launchBus_of_open ho ..)), ?_⟩
  rw [hend]
  exact ⟨rfl, rfl⟩

/-- Settles O47: the read segment's address phase spends the budget it began again with. -/
theorem notReadyReadAddressFails : Obligations.NotReadyReadAddressFails := by
  intro s wb n r rest ho hscl hr ha
  have hwritten := engineRun_launched_xferWR hscl wb n hr ha
  obtain ⟨e', hrefused⟩ := engineRun_address_refused hscl rest s.blk.ctrl.retry.toNat
    (e := { (s.blk.startEngine 0x4 wb n).eng with left := s.blk.ctrl.retry, seg := 1 }) rfl rfl
    (.start :: addressSymbols (addressByte s.blk.ctrl.addr false) r ++ [.tx wb .ack, .repStart])
  rw [show 6 + 2 * (r + s.blk.ctrl.retry.toNat) = 4 + 2 * r + (2 + 2 * s.blk.ctrl.retry.toNat) by omega]
  refine ⟨_, congrArg Host.Outcome.next (launchBus_of_open ho ..), ?_⟩
  rw [engineRun_trans hwritten hrefused]
  exact ⟨rfl, rfl⟩

end Sys2Proof.Machine
end

section
/-! PROOFS. Every bus command ends (40_i2c_engine.md R110, R123, 43_control.md R173, 45_bus_partner.md R207): each
symbol lowers the count of symbols the engine can still produce, and a turn that is not the engine's leaves it as it
is. -/

namespace Sys2Proof.Machine

/-- A command has completed. -/
def Block.ended (b : Block) : Prop := b.eng.phase = .idle ∧ b.status.busy = false ∧ b.status.isDone = true

/-- The most symbols after the ACK of the address byte: the bytes of a read and its STOP; a write byte, and its STOP or
the whole read segment with a budget of 15 (R105, R110). -/
def Eng.dataLeft (e : Eng) : Nat :=
  if isReadSegment e.op e.seg then e.rlen.toNat + 1
  else if hasNextSegment e.op e.seg then e.rlen.toNat + 34 else 2

/-- The most symbols the engine can still produce (R105, R123). -/
def Eng.symbolsLeft (e : Eng) : Nat :=
  match e.step with
  | .start => (if e.why = .segment then 32 else 2 * e.left.toNat + 2) + e.dataLeft
  | .addr => 2 * e.left.toNat + 1 + e.dataLeft
  | .wdata => if hasNextSegment e.op e.seg then e.rlen.toNat + 34 else 2
  | .rdata => e.rlen.toNat - 1 - e.idx.toNat + 2
  | .stop => 1

/-- The longest command, XFER.WR with three bytes and both budgets spent, has 69 symbols (R123). -/
theorem Eng.symbolsLeft_le (e : Eng) : e.symbolsLeft ≤ 69 := by
  have hl := e.left.isLt
  have hn := e.rlen.isLt
  have hdata : e.dataLeft ≤ 37 := by
    unfold dataLeft
    split_ifs <;> omega
  cases hs : e.step with
  | start | wdata =>
    simp only [symbolsLeft, hs]
    split_ifs <;> omega
  | addr | rdata | stop =>
    simp only [symbolsLeft, hs]
    omega

/-- A running engine has a symbol to produce. -/
theorem Eng.symbolsLeft_pos (e : Eng) : 0 < e.symbolsLeft := by
  cases hs : e.step with
  | start | wdata =>
    simp only [symbolsLeft, hs]
    split_ifs <;> omega
  | addr | rdata | stop =>
    simp only [symbolsLeft, hs]
    omega

theorem Eng.dataLeft_pos (e : Eng) : 0 < e.dataLeft := by
  unfold dataLeft
  split_ifs <;> omega

section
variable {e : Eng}

theorem Eng.symbolsLeft_start (hs : e.step = .start) :
    Eng.symbolsLeft { e with left := if e.why = .segment then e.retry else e.left, step := .addr } < e.symbolsLeft := by
  have hretry := e.retry.isLt
  have hdata : Eng.dataLeft { e with left := if e.why = .segment then e.retry else e.left, step := .addr } =
      e.dataLeft := rfl
  simp only [symbolsLeft, hs, hdata]
  split_ifs <;> omega

theorem Eng.symbolsLeft_dataPhase (hs : e.step = .addr) : e.dataPhase.symbolsLeft < e.symbolsLeft := by
  have hdata := e.dataLeft_pos
  by_cases hr : isReadSegment e.op e.seg
  · have hleft : e.dataLeft = e.rlen.toNat + 1 := if_pos hr
    by_cases hn : e.rlen = 0
    · simp only [dataPhase, hr, hn, if_true, symbolsLeft, hs]
      omega
    · have hpos : 0 < e.rlen.toNat := Nat.pos_of_ne_zero fun h => hn (BitVec.eq_of_toNat_eq h)
      simp only [dataPhase, hr, hn, if_true, if_false, symbolsLeft, hs]
      omega
  · have hleft : e.dataLeft = if hasNextSegment e.op e.seg then e.rlen.toNat + 34 else 2 := if_neg hr
    simp only [dataPhase, hr, if_false, symbolsLeft, hs, hleft, Bool.false_eq_true]
    omega

theorem Eng.symbolsLeft_addressNacked (hs : e.step = .addr) : e.addressNacked.symbolsLeft < e.symbolsLeft := by
  have hdata := e.dataLeft_pos
  by_cases hl : e.left = 0
  · simp only [addressNacked, hl, if_true, symbolsLeft, hs]
    omega
  · have hless : (e.left - 1).toNat + 1 = e.left.toNat := by bv_omega
    have hsame : Eng.dataLeft { e with left := e.left - 1, step := .start, why := .retry } = e.dataLeft := rfl
    simp only [addressNacked, hl, if_false, symbolsLeft, hs, hsame, reduceCtorEq]
    omega

theorem Eng.symbolsLeft_segmentDone (hs : e.step = .wdata) : e.segmentDone.symbolsLeft < e.symbolsLeft := by
  by_cases hn : hasNextSegment e.op e.seg
  · obtain ⟨hop, -⟩ := hasNextSegment_iff.mp hn
    have hread : isReadSegment e.op 1 = true := by rw [hop]; rfl
    simp only [segmentDone, hn, if_true, symbolsLeft, hs, dataLeft, hread]
    omega
  · simp only [segmentDone, hn, if_false, symbolsLeft, hs, Bool.false_eq_true]
    omega

theorem Eng.symbolsLeft_dataNack (hs : e.step = .wdata) :
    Eng.symbolsLeft { e with step := .stop, why := .dataNack } < e.symbolsLeft := by
  simp only [symbolsLeft, hs]
  split_ifs <;> omega

theorem Eng.symbolsLeft_byteDone (hs : e.step = .rdata) (r : Byte) : (e.byteDone r).symbolsLeft < e.symbolsLeft := by
  by_cases hmore : e.idx.toNat + 1 < e.rlen.toNat
  · have hidx : (e.idx + 1).toNat = e.idx.toNat + 1 := by bv_omega
    simp only [byteDone, receive_eq, hmore, if_true, symbolsLeft, hs, hidx]
    omega
  · simp only [byteDone, hmore, if_false, symbolsLeft, hs]
    omega

end

/-- A symbol that leaves the command running leaves fewer symbols. -/
theorem engineSymbol_shortens {s : State} (hrun : s.engineSymbol.blk.eng.phase = .run) :
    s.engineSymbol.blk.eng.symbolsLeft < s.blk.eng.symbolsLeft := by
  revert hrun
  unfold State.engineSymbol
  split
  case h_1 hs => exact fun _ => Eng.symbolsLeft_start hs
  case h_2 hs =>
    unfold State.engineAddr
    split
    · simp [State.loseArbitration]
    · exact fun _ => Eng.symbolsLeft_dataPhase hs
    · exact fun _ => Eng.symbolsLeft_addressNacked hs
  case h_3 hs =>
    unfold State.engineWdata
    split
    · simp [State.loseArbitration]
    · exact fun _ => Eng.symbolsLeft_segmentDone hs
    · exact fun _ => Eng.symbolsLeft_dataNack hs
  case h_4 hs =>
    unfold State.engineRdata
    split
    · simp [State.loseArbitration]
    · exact fun _ => Eng.symbolsLeft_byteDone hs _
  case h_5 hs =>
    unfold State.engineStop
    split <;> simp

/-- An engine step leaves the command running, or completes it (R172). -/
theorem engineStep_runs_or_ends {s : State} (hrun : s.blk.eng.phase = .run) :
    (engineStep s).blk.eng.phase = .run ∨ (engineStep s).blk.ended := by
  cases he : s.engineEnabled with
  | false => exact .inl (by rw [engineStep_disabled he, hrun])
  | true =>
    rw [engineStep_enabled he]
    rcases engineSymbol_cases s with ⟨e, y, hblk, hph, -⟩ | ⟨y, hblk, -⟩ |
      ⟨-, -, ⟨-, hblk⟩ | ⟨-, hblk⟩ | ⟨-, -, hblk⟩⟩ <;>
      rw [hblk]
    · exact .inl (hph.trans hrun)
    all_goals exact .inr ⟨rfl, rfl, rfl⟩

/-- The engine neither holds nor releases SCL for the partner (R106). -/
theorem engineStep_holdsScl (s : State) : (engineStep s).partner.holdsScl = s.partner.holdsScl := by
  cases he : s.engineEnabled with
  | false => rw [engineStep_disabled he]
  | true =>
    obtain ⟨-, -, -, hscl⟩ := engineSymbol_frame s
    rw [engineStep_enabled he, hscl]

/-- While SCL is not held a running command completes within the symbols it has left. -/
theorem engineRun_ends {n : Nat} {s : State} (hrun : s.blk.eng.phase = .run) (hscl : s.partner.holdsScl = false)
    (hn : s.blk.eng.symbolsLeft ≤ n) :
    ∃ k, k ≤ n ∧ (engineRun k s).blk.ended ∧ ∀ j, j < k → (engineRun j s).blk.eng.phase = .run := by
  induction n generalizing s with
  | zero =>
    have hpos := s.blk.eng.symbolsLeft_pos
    omega
  | succ n ih =>
    rcases engineStep_runs_or_ends hrun with hrun' | hend
    · have hless : (engineStep s).blk.eng.symbolsLeft < s.blk.eng.symbolsLeft := by
        rw [engineStep_enabled ((engineEnabled_iff s).mpr ⟨hrun, hscl⟩)] at hrun' ⊢
        exact engineSymbol_shortens hrun'
      obtain ⟨k, hk, hend, hrunning⟩ := ih hrun' ((engineStep_holdsScl s).trans hscl) (by omega)
      refine ⟨k + 1, by omega, hend, fun j hj => ?_⟩
      cases j with
      | zero => exact hrun
      | succ j => exact hrunning j (by omega)
    · refine ⟨1, by omega, hend, fun j hj => ?_⟩
      obtain rfl : j = 0 := by omega
      exact hrun

/-! The machine's steps while a command runs: first the listed turns, then the engine's (R8, assumption 2). -/

/-- A run of the machine, its first step known. -/
theorem stepRun_of_step {s t : State} (h : step s = .next t) (k : Nat) : stepRun (k + 1) s = stepRun k t := by
  rw [stepRun, h]

/-- With no turn listed and SCL not held, the machine's steps are the engine's while the command runs. -/
theorem stepRun_eq_engineRun {k : Nat} {s : State} (hs : s.turns = []) (hscl : s.partner.holdsScl = false)
    (hrunning : ∀ j, j < k → (engineRun j s).blk.eng.phase = .run) : stepRun k s = .next (engineRun k s) := by
  induction k generalizing s with
  | zero => rfl
  | succ k ih =>
    obtain ⟨-, -, hturns⟩ := engineStep_frame s
    have hfirst : step s = .next (engineStep s) :=
      step_of_no_turn_enabled hs ((engineEnabled_iff s).mpr ⟨hrunning 0 k.succ_pos, hscl⟩)
    rw [stepRun_of_step hfirst]
    exact ih (hturns.trans hs) ((engineStep_holdsScl s).trans hscl) fun j hj => hrunning (j + 1) (by omega)

/-- A host write changes the block only (R51). -/
theorem hostWrite_frame {r : Reg} {v : Word} {s t : State} (h : hostWrite r v s = .next t) :
    t = { s with blk := t.blk } := by
  rcases hostWrite_cases h with rfl | ⟨-, rfl⟩ | ⟨-, ⟨-, rfl⟩ | rfl | ⟨-, hl⟩⟩
  · rfl
  · rfl
  · rfl
  · rfl
  · exact (launch_blk hl).1

/-- The host's line moves neither the partner nor the turns. -/
theorem hostStep_frame {s t : State} (h : hostStep s = .next t) : t.partner = s.partner ∧ t.turns = s.turns := by
  rcases hostStep_cases h with ho | ⟨off, r, v, -, -, hw⟩
  · exact ⟨ho.partner, ho.turns⟩
  · rw [hostWrite_frame hw]
    exact ⟨rfl, rfl⟩

/-- The host's access moves neither the partner nor the turns. -/
theorem hostAccess_frame {a : Access} {s t : State} (h : hostAccess a s = .next t) :
    t.partner = s.partner ∧ t.turns = s.turns := by
  rcases hostAccess_moves h with ho | ⟨off, r, v, -, -, hw⟩
  · exact ⟨ho.partner, ho.turns⟩
  · rw [hostWrite_frame hw]
    exact ⟨rfl, rfl⟩

/-- A listed turn is taken off, and SCL ends as the turns say. -/
theorem step_takes_turn {s t : State} {turn : Turn} {rest : List Turn} (hs : s.turns = turn :: rest)
    (h : step s = .next t) :
    t.turns = rest ∧ sclAfter t.partner.holdsScl t.turns = sclAfter s.partner.holdsScl s.turns := by
  rw [step_of_turns_cons hs] at h
  rw [hs, sclAfter_cons]
  cases turn with
  | host =>
    obtain ⟨hpartner, hturns⟩ := hostStep_frame h
    rw [hpartner, hturns]
    exact ⟨rfl, rfl⟩
  | access a =>
    obtain ⟨hpartner, hturns⟩ := hostAccess_frame h
    rw [hpartner, hturns]
    exact ⟨rfl, rfl⟩
  | engine =>
    cases h
    obtain ⟨-, -, hturns⟩ := engineStep_frame { s with turns := rest }
    rw [engineStep_holdsScl, hturns]
    exact ⟨rfl, rfl⟩
  | partner p =>
    cases h
    cases p <;> exact ⟨rfl, rfl⟩
  | reset =>
    cases h
    exact ⟨rfl, rfl⟩

/-- A step that is no reset leaves a running command running, or completes it: the host finds BUSY = 1 (R32, R171). -/
theorem step_runs_or_ends {s t : State} (hbusy : s.blk.status.busy = true) (hrun : s.blk.eng.phase = .run)
    (hreset : Turn.reset ∉ s.turns) (h : step s = .next t) : t.blk.eng.phase = .run ∨ t.blk.ended := by
  rcases step_blk_cases h with ⟨rest, hs, -⟩ | hblk | hblk | ⟨-, hblk⟩ | ⟨hfree, -⟩ | ⟨hfree, -⟩ |
    ⟨v, s₀, ⟨hfree, -⟩, -⟩
  · exact absurd (hs ▸ List.mem_cons_self ..) hreset
  · rw [hblk]
    exact engineStep_runs_or_ends (s := s.turnTaken) hrun
  · exact .inl (hblk ▸ hrun)
  · exact .inl (hblk ▸ hrun)
  all_goals
    rw [hbusy] at hfree
    cases hfree

/-- A running command completes within 69 steps of the machine after the last listed turn. -/
theorem stepRun_ends {turns : List Turn} {s : State} (hturns : s.turns = turns) (hinv : s.Inv)
    (hrun : s.blk.eng.phase = .run) (hscl : ReleasesScl s) (hreset : Turn.reset ∉ turns)
    (hnext : ∀ k, k ≤ turns.length → ∃ t, stepRun k s = .next t) :
    ∃ k t, k ≤ turns.length + 69 ∧ stepRun k s = .next t ∧ t.blk.ended := by
  induction turns generalizing s with
  | nil =>
    have hfree : s.partner.holdsScl = false := by
      rw [ReleasesScl, hturns] at hscl
      exact hscl
    obtain ⟨k, hk, hend, hrunning⟩ := engineRun_ends hrun hfree s.blk.eng.symbolsLeft_le
    exact ⟨k, _, hk.trans (Nat.le_add_left ..), stepRun_eq_engineRun hturns hfree hrunning, hend⟩
  | cons turn rest ih =>
    obtain ⟨t, ht⟩ : ∃ t, step s = .next t := by
      obtain ⟨t, ht⟩ := hnext 1 (by simp)
      unfold stepRun at ht
      split at ht
      · next t' ht' => exact ⟨t', ht'⟩
      · exact ⟨t, ht⟩
    obtain ⟨hrest, hsame⟩ := step_takes_turn hturns ht
    rcases step_runs_or_ends (hinv.busyRuns.mpr hrun) hrun (hturns ▸ hreset) ht with hrun' | hend
    · obtain ⟨k, u, hk, hu, hend⟩ := ih hrest (everyStepKeepsTheInvariant s t hinv ht) hrun' (hsame.trans hscl)
        (fun hm => hreset (List.mem_cons_of_mem _ hm))
        (fun k hk => by rw [← stepRun_of_step ht k]; exact hnext (k + 1) (by simpa using hk))
      exact ⟨k + 1, u, by simp only [List.length_cons]; omega, (stepRun_of_step ht k).trans hu, hend⟩
    · exact ⟨1, t, by omega, stepRun_of_step ht 0, hend⟩

/-- Settles O51: the engine alone by `engineRun_ends`, the whole machine by `stepRun_ends`. -/
theorem everyBusCommandEnds : Obligations.EveryBusCommandEnds := by
  refine ⟨fun s _ hrun hscl => ?_, fun s hinv hrun hscl hreset hnext => stepRun_ends rfl hinv hrun hscl hreset hnext⟩
  obtain ⟨k, hk, hend, -⟩ := engineRun_ends hrun hscl s.blk.eng.symbolsLeft_le
  exact ⟨k, hk, hend⟩

end Sys2Proof.Machine
end

section
/-! PROOFS. CRC_OK: which commands write it, and that nothing else but CLRSTAT and reset does (41_crc.md R143, R144). -/

namespace Sys2Proof.Machine

/-- Settles O16: CRC.CHK is one write of the flag and a completion. -/
theorem crcChkWritesCrcOk : Obligations.CrcChkWritesCrcOk := fun _ => rfl

/-- The engine does not evaluate the CRC (R144). -/
theorem engineStep_crcOk (s : State) : (engineStep s).blk.status.crcOk = s.blk.status.crcOk := by
  rcases engineStep_blk_cases s with ⟨e, hblk⟩ | ⟨err, io, hblk⟩ | hblk <;> rw [hblk]
  · rfl
  · exact s.blk.deliver_crcOk

/-- The three commands that evaluate the CRC write its result and complete, a conversion also where the check fails. -/
theorem Block.commanded_evaluates {i : Instr} {b b' : Block} (hi : i = .crcChk ∨ i = .convT ∨ i = .convRH)
    (h : Block.commanded i b b') : b'.status.crcOk = crcOk b.data ∧ b'.status.isDone = true := by
  rcases hi with rfl | rfl | rfl
  · subst h; exact ⟨rfl, rfl⟩
  all_goals rcases h with ⟨-, rfl⟩ | ⟨-, rfl⟩ <;> exact ⟨rfl, rfl⟩

/-- A command's launch leaves CRC_OK alone unless it evaluates the CRC or is CLRSTAT (R144). -/
theorem Block.commanded_crcOk {i : Instr} {b b' : Block} (h : Block.commanded i b b') :
    b'.status.crcOk = b.status.crcOk ∨ (i = .clrstat ∧ b'.status.crcOk = false) ∨
      ((i = .crcChk ∨ i = .convT ∨ i = .convRH) ∧ b'.status.crcOk = crcOk b.data) := by
  cases i with
  | nop | busOpen => subst h; exact .inl rfl
  | busClose | xferW | xferWR | xferR => rcases h with ⟨-, rfl⟩ | ⟨-, rfl⟩ <;> exact .inl rfl
  | clrstat => subst h; exact .inr (.inl ⟨rfl, rfl⟩)
  | crcChk | convT | convRH => exact .inr (.inr ⟨by simp, (Block.commanded_evaluates (by simp) h).1⟩)

/-- Settles O35: of all a step can do, only a launch of CLRSTAT or of a command that evaluates the CRC, and reset, write
the flag. -/
theorem crcOkHoldsTheLastEvaluation : Obligations.CrcOkHoldsTheLastEvaluation := by
  refine ⟨fun s i hi => ?_, fun s t hstep hne => ?_⟩
  · obtain ⟨t, ht⟩ := exec_next i s
    exact ⟨t, ht, Block.commanded_evaluates hi (exec_cases ht).2⟩
  rcases step_blk_cases hstep with ⟨rest, hr, -⟩ | hblk | hblk | ⟨-, hblk⟩ | ⟨-, -, v, hblk⟩ | ⟨-, v, hblk⟩ |
    ⟨v, s₀, hl, hs₀, hlaunch⟩
  · exact .inl ⟨rest, hr⟩
  · exact absurd (hblk ▸ engineStep_crcOk s.turnTaken) hne
  iterate 4 exact absurd (by simp [hblk]) hne
  rcases (launch_blk hlaunch).2 with ⟨why, -, hblk⟩ | ⟨i, hi, hc⟩
  · exact absurd (by rw [hblk, hs₀]; rfl) hne
  obtain rfl := encode_of_decode_ok hi
  rcases Block.commanded_crcOk hc with hsame | ⟨rfl, hclear⟩ | ⟨hev, hres⟩
  · exact absurd (hsame.trans (by rw [hs₀]; rfl)) hne
  · exact .inr (.inl ⟨hl, hclear⟩)
  · refine .inr (.inr ⟨?_, hs₀ ▸ hres⟩)
    rcases hev with rfl | rfl | rfl
    · exact .inl hl
    · exact .inr (.inl hl)
    · exact .inr (.inr hl)

end Sys2Proof.Machine
end

section
/-! PROOFS. The validator's accumulator: it is linear over XOR, and it runs crc8 in its top byte while the payload's later
bytes are shifted in below (41_crc.md R141, R142, R146). -/

namespace Sys2Proof.Machine

/-- XOR and then shift is shift and then XOR of what is left of the constant: x⁵ + x⁴ + 1 in the top byte. -/
theorem crcIter_eq (acc : BitVec 32) : crcIter acc = acc <<< 1 ^^^ if acc.msb then 0x31000000#32 else 0#32 := by
  unfold crcIter
  cases acc.msb
  · simp
  · simp [BitVec.shiftLeft_xor_distrib, crcPoly]

/-- An iteration is linear over XOR. -/
theorem crcIter_xor (a b : BitVec 32) : crcIter (a ^^^ b) = crcIter a ^^^ crcIter b := by
  have hfeed : (if (a.msb ^^ b.msb) then 0x31000000#32 else 0#32) =
      (if a.msb then 0x31000000#32 else 0#32) ^^^ (if b.msb then 0x31000000#32 else 0#32) := by
    cases a.msb <;> cases b.msb <;> rfl
  rw [crcIter_eq, crcIter_eq, crcIter_eq, BitVec.msb_xor, BitVec.shiftLeft_xor_distrib, hfeed]
  ac_rfl

theorem crcIters_xor (n : Nat) (a b : BitVec 32) : crcIters n (a ^^^ b) = crcIters n a ^^^ crcIters n b := by
  induction n generalizing a b with
  | zero => rfl
  | succ n ih => simp only [crcIters, crcIter_xor, ih]

theorem crcIters_add (m n : Nat) (acc : BitVec 32) : crcIters (m + n) acc = crcIters n (crcIters m acc) := by
  induction m generalizing acc with
  | zero => rw [Nat.zero_add]; rfl
  | succ m ih => rw [Nat.succ_add]; exact ih (crcIter acc)

/-- The accumulator of a corrupted payload is that of the payload and that of the error pattern. -/
theorem crcAcc_xor (d e : BitVec 24) : crcAcc (d ^^^ e) = crcAcc d ^^^ crcAcc e := by
  simp only [crcAcc, BitVec.setWidth_xor, BitVec.shiftLeft_xor_distrib, crcIters_xor]

/-- A byte in bits 31:24 of the accumulator. -/
def accTop (c : Byte) : BitVec 32 := c.setWidth 32 <<< 24

theorem accTop_xor (a b : Byte) : accTop (a ^^^ b) = accTop a ^^^ accTop b := by
  simp only [accTop, BitVec.setWidth_xor, BitVec.shiftLeft_xor_distrib]

/-- In the top byte an iteration is a bit step of R146. -/
theorem crcIter_accTop : ∀ c : Byte, crcIter (accTop c) = accTop (crc8Bit c) := by decide +kernel

theorem crcIters_accTop (n : Nat) (c : Byte) : crcIters n (accTop c) = accTop (crc8Bits n c) := by
  induction n generalizing c with
  | zero => rfl
  | succ n ih => rw [crcIters, crcIter_accTop, ih]; rfl

/-- Below the top byte an iteration only shifts, until the byte has come to the top. -/
theorem crcIters_accTop_shifted {n k : Nat} (h : n + k ≤ 24) (c : Byte) :
    crcIters n (accTop c >>> (n + k)) = accTop c >>> k := by
  induction n with
  | zero => rw [Nat.zero_add]; rfl
  | succ n ih =>
    have hiter : crcIter (accTop c >>> (n + 1 + k)) = accTop c >>> (n + k) := by
      have hmsb : (accTop c >>> (n + 1 + k)).msb = false := by simp [BitVec.msb_ushiftRight]
      rw [crcIter_eq, hmsb]
      ext j hj
      rcases j with _ | j
      · simp [accTop, show n + k < 24 by omega]
      · simp [show n + 1 + k + j = n + k + (j + 1) by omega]
    rw [crcIters, hiter, ih (by omega)]

/-- The byte has come to the top. -/
theorem crcIters_accTop_arrived {n : Nat} (h : n ≤ 24) (c : Byte) : crcIters n (accTop c >>> n) = accTop c := by
  simpa using crcIters_accTop_shifted (k := 0) h c

/-- The payload's bytes, each at its place in the loaded accumulator. -/
theorem loaded_payload (b0 b1 b2 : Byte) :
    (payload b0 b1 b2).setWidth 32 <<< 8 = accTop b0 ^^^ (accTop b1 >>> 8 ^^^ accTop b2 >>> 16) := by
  ext j hj
  interval_cases j <;> simp [payload, accTop]

/-- After each eight iterations the next byte has joined the checksum so far. -/
theorem crcAcc_payload (b0 b1 b2 : Byte) : crcAcc (payload b0 b1 b2) = accTop (crc8Bits 8 (crc8 b0 b1 ^^^ b2)) := by
  have hfirst : crcIters 8 (accTop b0 ^^^ (accTop b1 >>> 8 ^^^ accTop b2 >>> 16)) =
      accTop (crc8Bits 8 b0 ^^^ b1) ^^^ accTop b2 >>> 8 := by
    rw [crcIters_xor, crcIters_xor, crcIters_accTop, crcIters_accTop_arrived (by decide),
      crcIters_accTop_shifted (n := 8) (k := 8) (by decide), accTop_xor, BitVec.xor_assoc]
  have hsecond : crcIters 8 (accTop (crc8Bits 8 b0 ^^^ b1) ^^^ accTop b2 >>> 8) = accTop (crc8 b0 b1 ^^^ b2) := by
    rw [crcIters_xor, crcIters_accTop, crcIters_accTop_arrived (by decide), accTop_xor, crc8]
  rw [crcAcc, loaded_payload, crcIters_add 8 16, hfirst, crcIters_add 8 8, hsecond, crcIters_accTop]

/-- Settles O19: the accumulator ends at 0 when the third byte cancels the checksum of the first two. -/
theorem validPayloadsCarryTheirCrc8 : Obligations.ValidPayloadsCarryTheirCrc8 := by
  intro b0 b1 b2
  have hzero : ∀ c : Byte, accTop (crc8Bits 8 c) = 0 ↔ c = 0 := by decide +kernel
  rw [crcOk, beq_iff_eq, crcAcc_payload, hzero]
  exact BitVec.xor_eq_zero_iff.trans eq_comm

end Sys2Proof.Machine
end

section
/-! PROOFS. What the CRC detects (41_crc.md R145): an error pattern is the XOR of its single bits, and so is its
accumulator. -/

namespace Sys2Proof.Machine

/-- The error pattern of the bits listed. -/
def errorAt (ks : List Nat) : BitVec 24 := ks.foldr (fun k e => BitVec.twoPow 24 k ^^^ e) 0

theorem errorAt_cons (k : Nat) (ks : List Nat) : errorAt (k :: ks) = BitVec.twoPow 24 k ^^^ errorAt ks := rfl

theorem getLsbD_errorAt {ks : List Nat} (hks : ks.Nodup) {j : Nat} (hj : j < 24) :
    (errorAt ks).getLsbD j = decide (j ∈ ks) := by
  induction ks with
  | nil => simp [errorAt]
  | cons k ks ih =>
    obtain ⟨hk, hks⟩ := List.nodup_cons.mp hks
    rw [errorAt_cons, BitVec.getLsbD_xor, ih hks, BitVec.getLsbD_twoPow]
    by_cases hjk : k = j
    · subst hjk; simp [hk, hj]
    · simp [hjk, Ne.symm hjk]

/-- The bits set in an error pattern. -/
def errorBits (e : BitVec 24) : List Nat := (List.range 24).filter e.getLsbD

theorem errorBits_nodup (e : BitVec 24) : (errorBits e).Nodup := List.nodup_range.filter _

theorem lt_of_mem_errorBits {e : BitVec 24} {k : Nat} (h : k ∈ errorBits e) : k < 24 :=
  List.mem_range.mp (List.mem_of_mem_filter h)

theorem errorAt_errorBits (e : BitVec 24) : errorAt (errorBits e) = e := by
  ext j hj
  rw [← BitVec.getLsbD_eq_getElem, getLsbD_errorAt (errorBits_nodup e) hj]
  simp [errorBits, hj]

/-- Whether an accumulator has an odd number of bits set. -/
def oddBits (acc : BitVec 32) : Bool := (List.range 32).foldr (fun k odd => acc.getLsbD k ^^ odd) false

theorem oddBits_xor (a b : BitVec 32) : oddBits (a ^^^ b) = (oddBits a ^^ oddBits b) := by
  unfold oddBits
  induction List.range 32 with
  | nil => rfl
  | cons k ks ih =>
    rw [List.foldr_cons, List.foldr_cons, List.foldr_cons, ih, BitVec.getLsbD_xor]
    simp only [Bool.xor_assoc, Bool.xor_left_comm (b.getLsbD k)]

/-- x + 1 divides P(x), so a single bit leaves an odd number of bits. -/
theorem oddBits_crcAcc_twoPow : ∀ k < 24, oddBits (crcAcc (BitVec.twoPow 24 k)) = true := by decide +kernel

/-- The accumulator keeps the parity of the error. -/
theorem oddBits_crcAcc_errorAt {ks : List Nat} (hks : ∀ k ∈ ks, k < 24) :
    oddBits (crcAcc (errorAt ks)) = decide (ks.length % 2 = 1) := by
  induction ks with
  | nil => decide +kernel
  | cons k ks ih =>
    obtain ⟨hk, hks⟩ := List.forall_mem_cons.mp hks
    rw [errorAt_cons, crcAcc_xor, oddBits_xor, oddBits_crcAcc_twoPow k hk, ih hks, List.length_cons]
    rcases Nat.mod_two_eq_zero_or_one ks.length with h | h <;> simp [h, Nat.add_mod]

/-- Different single bits leave different accumulators. -/
theorem crcAcc_twoPow_injOn : ∀ j < 24, ∀ k < 24, crcAcc (BitVec.twoPow 24 j) = crcAcc (BitVec.twoPow 24 k) → j = k := by
  decide +kernel

/-- So two single bits do not cancel. -/
theorem crcAcc_errorAt_pair_ne_zero {j k : Nat} (hj : j < 24) (hk : k < 24) (hne : j ≠ k) :
    crcAcc (errorAt [j, k]) ≠ 0 := by
  have hpair : errorAt [j, k] = BitVec.twoPow 24 j ^^^ BitVec.twoPow 24 k := by simp [errorAt]
  rw [hpair, crcAcc_xor]
  exact fun hzero => hne (crcAcc_twoPow_injOn j hj k hk (BitVec.xor_eq_zero_iff.mp hzero))

/-- No error pattern of weight 2 and none of odd weight ends at accumulator 0. -/
theorem crcAcc_ne_zero {e : BitVec 24} (hw : (errorBits e).length = 2 ∨ (errorBits e).length % 2 = 1) :
    crcAcc e ≠ 0 := by
  rw [← errorAt_errorBits e]
  rcases hw with htwo | hodd
  · obtain ⟨j, k, hjk⟩ := List.length_eq_two.mp htwo
    have hlt := fun i => lt_of_mem_errorBits (e := e) (k := i)
    have hnd := errorBits_nodup e
    rw [hjk] at hlt hnd ⊢
    exact crcAcc_errorAt_pair_ne_zero (hlt j (by simp)) (hlt k (by simp)) (by simpa using hnd)
  · intro hzero
    have hparity := oddBits_crcAcc_errorAt (fun _ => lt_of_mem_errorBits (e := e))
    rw [hzero] at hparity
    simp [hodd, oddBits] at hparity

/-- On a valid payload the check of a corruption is the check of the error pattern alone. -/
theorem crcOk_xor {d : BitVec 24} (hd : crcOk d = true) (e : BitVec 24) : crcOk (d ^^^ e) = crcOk e := by
  have hacc : crcAcc d = 0 := by simpa [crcOk] using hd
  simp [crcOk, crcAcc_xor, hacc]

/-- Settles O20: weights 1 and 3 are odd, and the weight-4 pattern is itself a valid payload. -/
theorem crcErrorDetection : Obligations.CrcErrorDetection := by
  refine ⟨fun d e hd hw => ?_, fun d hd => ?_⟩
  · have hw' : (errorBits e).length = 2 ∨ (errorBits e).length % 2 = 1 := by
      change (errorBits e).length = 1 ∨ (errorBits e).length = 2 ∨ (errorBits e).length = 3 ∨
        (errorBits e).length % 2 = 1 at hw
      omega
    rw [crcOk_xor hd]
    simpa [crcOk] using crcAcc_ne_zero hw'
  · rw [crcOk_xor hd]
    decide +kernel

end Sys2Proof.Machine
end

section
/-! PROOFS. What CONV.T and CONV.RH decode, and what they leave (42_convert.md R151 to R156). -/

namespace Sys2Proof.Machine

/-- The mask clears two bits of the low byte and none of the high byte (R152). -/
theorem decodeRaw_eq_append (b0 b1 : Byte) : decodeRaw b0 b1 = b0 ++ (b1 &&& 0xFC) := by
  refine BitVec.eq_of_getLsbD_eq fun j hj => ?_
  rw [BitVec.getLsbD_append]
  interval_cases j <;> simp [decodeRaw]

theorem and_0xFC_toNat : ∀ b : Byte, (b &&& 0xFC).toNat = b.toNat / 4 * 4 := by decide +kernel

theorem decodeRaw_toNat (b0 b1 : Byte) : (decodeRaw b0 b1).toNat = b0.toNat * 256 + b1.toNat / 4 * 4 := by
  rw [decodeRaw_eq_append, BitVec.toNat_append, ← Nat.shiftLeft_add_eq_or_of_lt (BitVec.isLt _), Nat.shiftLeft_eq,
    and_0xFC_toNat]

/-- Settles O23: XOR with a pattern in the two status bits is gone after the mask. -/
theorem decodeMasksTheStatusBits : Obligations.DecodeMasksTheStatusBits := by
  refine fun b0 b1 => ⟨decodeRaw_toNat b0 b1, fun x hx => ?_⟩
  have hmask : (b1 ^^^ x) &&& 0xFC = b1 &&& 0xFC := calc
    (b1 ^^^ x) &&& 0xFC = (b1 &&& 0xFC) ^^^ (x &&& 0xFC) := by
      ext j hj
      simp only [BitVec.getElem_and, BitVec.getElem_xor, Bool.and_xor_distrib_right]
    _ = b1 &&& 0xFC := by rw [hx]; exact BitVec.xor_zero
  rw [decodeRaw_eq_append, decodeRaw_eq_append, hmask]

/-- The two data bytes stand next to each other in DATA (R152, R155). -/
theorem rawOf_eq (d : BitVec 24) : rawOf d = d.extractLsb' 8 16 &&& 0xFFFC := by
  have hbytes : (byte0 d).setWidth 16 <<< 8 ||| (byte1 d).setWidth 16 = d.extractLsb' 8 16 := by
    ext j hj
    interval_cases j <;> simp [byte0, byte1]
  rw [rawOf, decodeRaw, hbytes]

theorem convCommand_of_crcOk {s : State} (hok : crcOk s.blk.data = true) (k1 k2 : BitVec 64) :
    s.convCommand k1 k2 = { s with blk := (s.blk.checkCrc.convert k1 k2).complete 0 0 } :=
  (convCommand_cases s k1 k2).elim And.right fun h => absurd hok (by simp [h.1])

/-- Settles O17: where the check passes, CRC_OK is 1 and the block is converted and completes. -/
theorem convConvertsAValidPayload : Obligations.ConvConvertsAValidPayload := by
  intro s hok raw r converted
  have hconv (k1 k2 : BitVec 64) : s.convCommand k1 k2 = converted k1 k2 := by
    have hraw : rawOf s.blk.data = raw := rawOf_eq s.blk.data
    have hcheck : s.blk.checkCrc = { s.blk with status := { s.blk.status with crcOk := true } } := by
      rw [← hok]; rfl
    rw [convCommand_of_crcOk hok, Block.convert, hcheck, hraw]
    rfl
  exact ⟨congrArg Host.Outcome.next (hconv kT1 kT2), congrArg Host.Outcome.next (hconv kH1 kH2)⟩

end Sys2Proof.Machine
end

section
/-! PROOFS. The rational number a dyadic stands for, and what the exact operations are on it (42_convert.md R153). -/

namespace Sys2Proof.Machine

/-- The rational number a dyadic stands for. -/
def Dy.rat (x : Dy) : ℚ := x.num * 2 ^ x.exp

theorem two_zpow_pos (e : ℤ) : (0 : ℚ) < 2 ^ e := zpow_pos two_pos e

theorem two_zpow_add_natCast (e : ℤ) (k : Nat) : (2 : ℚ) ^ (e + k) = 2 ^ k * 2 ^ e := by
  rw [zpow_add₀ two_ne_zero, zpow_natCast, mul_comm]

theorem lt_of_two_zpow_lt {a b : ℤ} (h : (2 : ℚ) ^ a < 2 ^ b) : a < b := (zpow_lt_zpow_iff_right₀ one_lt_two).mp h

theorem two_zpow_mono {a b : ℤ} (h : a ≤ b) : (2 : ℚ) ^ a ≤ 2 ^ b := zpow_le_zpow_right₀ one_le_two h

theorem two_zpow_split {e a : ℤ} (h : e ≤ a) : (2 : ℚ) ^ a = 2 ^ (a - e).toNat * 2 ^ e := by
  rw [← two_zpow_add_natCast]
  congr 1
  omega

theorem Dy.numAt_rat {x : Dy} {e : ℤ} (h : e ≤ x.exp) : (x.numAt e : ℚ) * 2 ^ e = x.rat := by
  rw [Dy.rat, two_zpow_split h, Dy.numAt]
  push_cast
  ring

theorem Dy.mul_rat (x y : Dy) : (x.mul y).rat = x.rat * y.rat := by
  simp only [Dy.rat, Dy.mul, Int.cast_mul, zpow_add₀ (two_ne_zero (α := ℚ))]
  ring

theorem Dy.sub_rat (x y : Dy) : (x.sub y).rat = x.rat - y.rat := by
  rw [← Dy.numAt_rat (min_le_left x.exp y.exp), ← Dy.numAt_rat (min_le_right x.exp y.exp), ← sub_mul, Dy.rat, Dy.sub,
    Int.cast_sub]

theorem Dy.same_iff (x y : Dy) : x.same y ↔ x.rat = y.rat := by
  rw [← Dy.numAt_rat (min_le_left x.exp y.exp), ← Dy.numAt_rat (min_le_right x.exp y.exp),
    mul_left_inj' (two_zpow_pos _).ne', Int.cast_inj, Dy.same]

theorem Dy.le_iff (x y : Dy) : x.le y ↔ x.rat ≤ y.rat := by
  rw [← Dy.numAt_rat (min_le_left x.exp y.exp), ← Dy.numAt_rat (min_le_right x.exp y.exp),
    mul_le_mul_iff_left₀ (two_zpow_pos _), Int.cast_le, Dy.le]

theorem Dy.rat_eq_zero_iff {x : Dy} : x.rat = 0 ↔ x.num = 0 := by
  rw [Dy.rat, mul_eq_zero_iff_right (two_zpow_pos _).ne', Int.cast_eq_zero]

theorem Dy.rat_neg_iff {x : Dy} : x.rat < 0 ↔ x.num < 0 := by
  rw [Dy.rat, ← zero_mul (2 ^ x.exp : ℚ), mul_lt_mul_iff_left₀ (two_zpow_pos _), Int.cast_lt_zero]

theorem Dy.abs_rat (x : Dy) : |x.rat| = x.num.natAbs * 2 ^ x.exp := by
  rw [Dy.rat, abs_mul, abs_of_pos (two_zpow_pos _), Nat.cast_natAbs, Int.cast_abs]

/-- The place of the leading bit of a number: `2 ^ x.place ≤ |x| < 2 ^ (x.place + 1)`. -/
def Dy.place (x : Dy) : ℤ := x.exp + x.num.natAbs.log2

theorem Dy.two_zpow_place_le {x : Dy} (hx : x.num ≠ 0) : 2 ^ x.place ≤ |x.rat| := by
  rw [x.abs_rat, Dy.place, two_zpow_add_natCast]
  gcongr
  exact_mod_cast Nat.log2_self_le (Int.natAbs_ne_zero.mpr hx)

theorem Dy.abs_rat_lt_two_zpow (x : Dy) : |x.rat| < 2 ^ (x.place + 1) := by
  rw [x.abs_rat, Dy.place, add_assoc, ← Nat.cast_add_one, two_zpow_add_natCast]
  gcongr
  exact_mod_cast Nat.lt_log2_self

/-- Bounds on the magnitude bound the place. -/
theorem Dy.place_lt {x : Dy} (hx : x.num ≠ 0) {e : ℤ} (h : |x.rat| < 2 ^ e) : x.place < e :=
  lt_of_two_zpow_lt ((Dy.two_zpow_place_le hx).trans_lt h)

theorem Dy.le_place {x : Dy} {e : ℤ} (h : 2 ^ e ≤ |x.rat|) : e ≤ x.place :=
  Int.lt_add_one_iff.mp (lt_of_two_zpow_lt (h.trans_lt x.abs_rat_lt_two_zpow))

/-- Equal numbers have one place. -/
theorem Dy.place_congr {x y : Dy} (hx : x.num ≠ 0) (h : x.rat = y.rat) : x.place = y.place := by
  have hy : y.num ≠ 0 := fun h0 => hx (Dy.rat_eq_zero_iff.mp (h.trans (Dy.rat_eq_zero_iff.mpr h0)))
  exact le_antisymm (Dy.le_place (h ▸ Dy.two_zpow_place_le hx)) (Dy.le_place (h ▸ Dy.two_zpow_place_le hy))

end Sys2Proof.Machine
end

section
/-! PROOFS. Rounding to the nearest integer, a tie to the even one (42_convert.md R150). -/

namespace Sys2Proof.Machine

theorem roundEven_nearest (n k : Nat) :
    2 * n ≤ (2 * roundEven n k + 1) * 2 ^ k ∧ 2 * roundEven n k * 2 ^ k ≤ 2 * n + 2 ^ k ∧
      (2 * n = (2 * roundEven n k + 1) * 2 ^ k ∨ 2 * roundEven n k * 2 ^ k = 2 * n + 2 ^ k →
        roundEven n k % 2 = 0) := by
  have hdiv := Nat.div_add_mod n (2 ^ k)
  have hmod := Nat.mod_lt n (Nat.two_pow_pos k)
  unfold roundEven
  generalize 2 ^ k = d at *
  generalize n / d = q at *
  generalize n % d = r at *
  have hup : (2 * (q + 1) + 1) * d = 2 * (d * q) + 3 * d := by ring
  have hup' : 2 * (q + 1) * d = 2 * (d * q) + 2 * d := by ring
  have hdown : (2 * q + 1) * d = 2 * (d * q) + d := by ring
  have hdown' : 2 * q * d = 2 * (d * q) := by ring
  split
  · rw [hup, hup']; omega
  · rw [hdown, hdown']; omega

/-- M is the integer nearest q, the even one where two are. -/
def RoundsTo (q : ℚ) (M : ℤ) : Prop := |q - M| ≤ 1 / 2 ∧ (|q - M| = 1 / 2 → Even M)

theorem RoundsTo.neg {q : ℚ} {M : ℤ} (h : RoundsTo q M) : RoundsTo (-q) (-M) := by
  have habs : |-q - ((-M : ℤ) : ℚ)| = |q - M| := by rw [Int.cast_neg, neg_sub_neg, abs_sub_comm]
  rw [RoundsTo, habs, even_neg]
  exact h

theorem roundsTo_intCast (M : ℤ) : RoundsTo M M := by simp [RoundsTo]

theorem roundsTo_roundEven (n k : Nat) : RoundsTo (n / 2 ^ k) (roundEven n k) := by
  obtain ⟨hlow, hhigh, htie⟩ := roundEven_nearest n k
  generalize roundEven n k = r at *
  have hd : (0 : ℚ) < 2 * 2 ^ k := by positivity
  have hdist : |(n : ℚ) / 2 ^ k - (r : ℤ)| = |2 * (n : ℚ) - 2 * r * 2 ^ k| / (2 * 2 ^ k) := by
    rw [eq_div_iff hd.ne', ← abs_of_pos hd, ← abs_mul, Int.cast_natCast]
    congr 1
    field_simp
  have hhalf : (1 / 2 * (2 * 2 ^ k) : ℚ) = 2 ^ k := by ring
  rw [RoundsTo, hdist, div_le_iff₀ hd, div_eq_iff hd.ne', hhalf, Int.even_coe_nat, Nat.even_iff]
  qify at hlow hhigh
  refine ⟨abs_le.mpr ⟨by linarith, by linarith⟩, fun h => htie ?_⟩
  qify
  rcases eq_or_eq_neg_of_abs_eq h with h | h
  · exact .inl (by linarith)
  · exact .inr (by linarith)

/-- A larger number does not round to a smaller integer. -/
theorem RoundsTo.le {p q : ℚ} {M N : ℤ} (hp : RoundsTo p M) (hq : RoundsTo q N) (h : p ≤ q) : M ≤ N := by
  by_contra hlt
  have hstep : (N : ℚ) + 1 ≤ M := by exact_mod_cast not_le.mp hlt
  have hpM := abs_le.mp hp.1
  have hqN := abs_le.mp hq.1
  have hM : (M : ℚ) = N + 1 := by linarith
  have hevenM : Even M := hp.2 (abs_eq (by norm_num) |>.mpr (.inr (by linarith)))
  have hevenN : Even N := hq.2 (abs_eq (by norm_num) |>.mpr (.inl (by linarith)))
  obtain rfl : M = N + 1 := by exact_mod_cast hM
  exact (Int.even_add_one.mp hevenM) hevenN

/-- Another integer is half a unit away or more. -/
theorem RoundsTo.half_le {q : ℚ} {M N : ℤ} (h : RoundsTo q M) (hne : N ≠ M) : 1 / 2 ≤ |q - N| := by
  have hone : (1 : ℚ) ≤ |(N : ℚ) - M| := by exact_mod_cast Int.one_le_abs (sub_ne_zero.mpr hne)
  have htri := abs_sub_le (N : ℚ) q M
  rw [abs_sub_comm (N : ℚ) q] at htri
  linarith [h.1]

theorem RoundsTo.nearest {q : ℚ} {M : ℤ} (h : RoundsTo q M) (N : ℤ) : |q - M| ≤ |q - N| := by
  by_cases hne : N = M
  · rw [hne]
  · exact h.1.trans (h.half_le hne)

theorem RoundsTo.even_of_tie {q : ℚ} {M N : ℤ} (h : RoundsTo q M) (hne : N ≠ M) (htie : |q - M| = |q - N|) : Even M :=
  h.2 (le_antisymm h.1 (htie ▸ h.half_le hne))

end Sys2Proof.Machine
end

section
/-! PROOFS. `fl64` and `fl32` give the nearest number of the format (42_convert.md R150): among the numbers at the
exponent of the last bit kept, the rounding is that of an integer, and every other number of the format is farther off. -/

namespace Sys2Proof.Machine

variable {f : Format} {x y : Dy} {q : ℚ}

/-! The exponent of the last bit kept. -/

theorem Format.minExp_le_lastExp (f : Format) (x : Dy) : f.minExp ≤ f.lastExp x := le_max_right _ _

theorem Format.lastExp_eq (f : Format) (x : Dy) : f.lastExp x = max (x.place - f.frac) f.minExp := rfl

theorem Format.lastExp_eq_of_minExp_lt (h : f.minExp < f.lastExp x) : f.frac + f.lastExp x = x.place := by
  rw [f.lastExp_eq] at h ⊢
  omega

theorem Format.lastExp_congr (hx : x.num ≠ 0) (h : x.rat = y.rat) : f.lastExp x = f.lastExp y := by
  rw [f.lastExp_eq, f.lastExp_eq, Dy.place_congr hx h]

/-- A number is below the magnitude at which a further last bit would be dropped. -/
theorem Format.abs_rat_lt_at_lastExp (f : Format) (x : Dy) : |x.rat| < 2 ^ (f.frac + 1) * 2 ^ f.lastExp x := by
  rw [← two_zpow_add_natCast]
  refine x.abs_rat_lt_two_zpow.trans_le (two_zpow_mono ?_)
  rw [f.lastExp_eq]
  omega

/-- Above the smallest exponent the leading bit is among the bits kept. -/
theorem Format.le_abs_rat_at_lastExp (hx : x.num ≠ 0) (h : f.minExp < f.lastExp x) :
    2 ^ f.frac * 2 ^ f.lastExp x ≤ |x.rat| := by
  rw [← two_zpow_add_natCast, add_comm, Format.lastExp_eq_of_minExp_lt h]
  exact Dy.two_zpow_place_le hx

/-! What fl answers. -/

/-- Either no bit is dropped, or the number is rounded to an integer at the exponent of the last bit kept. -/
theorem Format.fl_cases (f : Format) (x : Dy) :
    (f.lastExp x ≤ x.exp ∧ f.fl x = x) ∨
      ∃ M : ℤ, f.fl x = ⟨M, f.lastExp x⟩ ∧ RoundsTo (x.rat / 2 ^ f.lastExp x) M := by
  unfold Format.fl
  split
  next h => exact .inl ⟨h, rfl⟩
  next h =>
    refine .inr ⟨_, rfl, ?_⟩
    have hscale : x.rat / 2 ^ f.lastExp x = x.num.sign * (x.num.natAbs / 2 ^ (f.lastExp x - x.exp).toNat) := by
      have hnum : (x.num : ℚ) = x.num.sign * x.num.natAbs := by
        rw [Nat.cast_natAbs, ← Int.cast_mul, Int.sign_mul_abs]
      rw [two_zpow_split (not_le.mp h).le, Dy.rat, hnum]
      have := two_zpow_pos x.exp
      field_simp
    rw [hscale]
    have hround := roundsTo_roundEven x.num.natAbs (f.lastExp x - x.exp).toNat
    rcases Int.sign_trichotomy x.num with hs | hs | hs <;> rw [hs]
    · simpa using hround
    · simpa using roundsTo_intCast 0
    · simpa using hround.neg

/-- In both cases the result is the rounded integer at the exponent of the last bit kept. -/
theorem Format.fl_rat (f : Format) (x : Dy) :
    ∃ M : ℤ, (f.fl x).rat = M * 2 ^ f.lastExp x ∧ RoundsTo (x.rat / 2 ^ f.lastExp x) M := by
  obtain ⟨hle, hfl⟩ | ⟨M, hfl, hround⟩ := f.fl_cases x
  · refine ⟨x.numAt (f.lastExp x), ?_, ?_⟩
    · rw [hfl, Dy.numAt_rat hle]
    · rw [← Dy.numAt_rat hle, mul_div_cancel_right₀ _ (two_zpow_pos _).ne']
      exact roundsTo_intCast _
  · exact ⟨M, by rw [hfl, Dy.rat], hround⟩

/-! The numbers of the format, its greatest exponent left out: a significand of `frac + 1` bits, or the power of two that
a rounding carries to. -/

/-- q is a number of the format, if its exponent is not too great. -/
def Format.Has (f : Format) (q : ℚ) : Prop :=
  ∃ m e : ℤ, |m| ≤ 2 ^ (f.frac + 1) ∧ f.minExp ≤ e ∧ q = m * 2 ^ e

/-- A number of the format is a multiple of the last bit, or too small for a normal number at that exponent. -/
theorem Format.Has.multiple_or_small (hq : f.Has q) (L : ℤ) :
    (∃ N : ℤ, q = N * 2 ^ L) ∨ (f.minExp < L ∧ |q| < 2 ^ f.frac * 2 ^ L) := by
  obtain ⟨m, e, hm, he, rfl⟩ := hq
  rcases le_or_gt L e with hL | hL
  · refine .inl ⟨m * 2 ^ (e - L).toNat, ?_⟩
    rw [two_zpow_split hL]
    push_cast
    ring
  · have hm' : |(m : ℚ)| ≤ 2 ^ (f.frac + 1) := by exact_mod_cast hm
    have hle : |(m : ℚ) * 2 ^ e| ≤ 2 ^ f.frac * 2 ^ L := calc
      |(m : ℚ) * 2 ^ e| = |(m : ℚ)| * 2 ^ e := by rw [abs_mul, abs_of_pos (two_zpow_pos e)]
      _ ≤ 2 ^ (f.frac + 1) * 2 ^ e := by gcongr
      _ = 2 ^ (e + 1 + f.frac) := by rw [← two_zpow_add_natCast]; congr 1; push_cast; ring
      _ ≤ 2 ^ (L + f.frac) := two_zpow_mono (by omega)
      _ = 2 ^ f.frac * 2 ^ L := two_zpow_add_natCast L f.frac
    rcases hle.eq_or_lt with heq | hlt
    · left
      rcases eq_or_eq_neg_of_abs_eq heq with h | h
      · exact ⟨2 ^ f.frac, by rw [h]; push_cast; rfl⟩
      · exact ⟨-2 ^ f.frac, by rw [h]; push_cast; ring⟩
    · exact .inr ⟨by omega, hlt⟩

/-- A number of the format that is no multiple of the last bit kept is farther off than some multiple. -/
theorem Format.Has.multiple_or_farther (hq : f.Has q) (x : Dy) :
    ∃ N : ℤ, q = N * 2 ^ f.lastExp x ∨ |x.rat - N * 2 ^ f.lastExp x| < |x.rat - q| := by
  obtain ⟨N, hN⟩ | ⟨hL, hsmall⟩ := hq.multiple_or_small (f.lastExp x)
  · exact ⟨N, .inl hN⟩
  by_cases hx : x.num = 0
  · rw [Dy.rat_eq_zero_iff.mpr hx]
    refine ⟨0, ?_⟩
    rcases eq_or_ne q 0 with rfl | hne
    · simp
    · simp [hne]
  · have hbig := Format.le_abs_rat_at_lastExp hx hL
    have hq' := abs_lt.mp hsmall
    rcases le_total 0 x.rat with hpos | hneg
    · rw [abs_of_nonneg hpos] at hbig
      refine ⟨2 ^ f.frac, .inr ?_⟩
      push_cast
      rw [abs_of_nonneg (by linarith), abs_of_nonneg (by linarith)]
      linarith
    · rw [abs_of_nonpos hneg] at hbig
      refine ⟨-2 ^ f.frac, .inr ?_⟩
      push_cast
      rw [abs_of_nonpos (by linarith), abs_of_nonpos (by linarith)]
      linarith

/-- Rounding a significand carries at most to the next power of two. -/
theorem Format.abs_le_of_roundsTo {M : ℤ} (h : RoundsTo (x.rat / 2 ^ f.lastExp x) M) : |M| ≤ 2 ^ (f.frac + 1) := by
  have hlt : |x.rat / 2 ^ f.lastExp x| < 2 ^ (f.frac + 1) := by
    rw [abs_div, abs_of_pos (two_zpow_pos _), div_lt_iff₀ (two_zpow_pos _)]
    exact f.abs_rat_lt_at_lastExp x
  have hup : x.rat / 2 ^ f.lastExp x ≤ ((2 ^ (f.frac + 1) : ℤ) : ℚ) := by push_cast; exact (abs_lt.mp hlt).2.le
  have hdown : ((-2 ^ (f.frac + 1) : ℤ) : ℚ) ≤ x.rat / 2 ^ f.lastExp x := by push_cast; exact (abs_lt.mp hlt).1.le
  exact abs_le.mpr ⟨(roundsTo_intCast _).le h hdown, h.le (roundsTo_intCast _) hup⟩

theorem Format.has_fl (f : Format) (x : Dy) : f.Has (f.fl x).rat := by
  obtain ⟨M, hrat, hround⟩ := f.fl_rat x
  exact ⟨M, f.lastExp x, Format.abs_le_of_roundsTo hround, f.minExp_le_lastExp x, hrat⟩

theorem abs_sub_mul_two_zpow (q : ℚ) (N L : ℤ) : |q - N * 2 ^ L| = |q / 2 ^ L - N| * 2 ^ L := by
  rw [← abs_of_pos (two_zpow_pos L), ← abs_mul, abs_of_pos (two_zpow_pos L), sub_mul,
    div_mul_cancel₀ _ (two_zpow_pos L).ne']

/-- No number of the format is nearer than the rounded one. -/
theorem Format.fl_nearest (hq : f.Has q) (x : Dy) : |x.rat - (f.fl x).rat| ≤ |x.rat - q| := by
  obtain ⟨M, hfl, hround⟩ := f.fl_rat x
  have hnear (N : ℤ) : |x.rat - (f.fl x).rat| ≤ |x.rat - N * 2 ^ f.lastExp x| := by
    rw [hfl, abs_sub_mul_two_zpow, abs_sub_mul_two_zpow]
    exact mul_le_mul_of_nonneg_right (hround.nearest N) (two_zpow_pos _).le
  obtain ⟨N, rfl | hfar⟩ := hq.multiple_or_farther x
  · exact hnear N
  · exact (hnear N).trans hfar.le

/-- At a tie the rounded number is an even multiple of its last bit. -/
theorem Format.fl_even_of_tie (hq : f.Has q) (hne : q ≠ (f.fl x).rat)
    (htie : |x.rat - (f.fl x).rat| = |x.rat - q|) :
    ∃ M : ℤ, f.fl x = ⟨M, f.lastExp x⟩ ∧ |M| ≤ 2 ^ (f.frac + 1) ∧ Even M := by
  obtain ⟨-, hfl⟩ | ⟨M, hfl, hround⟩ := f.fl_cases x
  · rw [hfl, sub_self, abs_zero, eq_comm, abs_eq_zero, sub_eq_zero] at htie
    exact absurd htie.symm (hfl ▸ hne)
  have hrat : (f.fl x).rat = M * 2 ^ f.lastExp x := by rw [hfl, Dy.rat]
  have hdist (N : ℤ) := abs_sub_mul_two_zpow x.rat N (f.lastExp x)
  refine ⟨M, hfl, Format.abs_le_of_roundsTo hround, ?_⟩
  obtain ⟨N, rfl | hfar⟩ := hq.multiple_or_farther x
  · rw [hrat, hdist, hdist, mul_left_inj' (two_zpow_pos _).ne'] at htie
    exact hround.even_of_tie (fun h => hne (by rw [h, hrat])) htie
  · rw [← htie, hrat, hdist, hdist] at hfar
    exact absurd (lt_of_mul_lt_mul_right hfar (two_zpow_pos _).le) (hround.nearest N).not_gt

/-- A number of the format is kept. -/
theorem Format.fl_rat_of_has (h : f.Has x.rat) : (f.fl x).rat = x.rat := by
  have hnear := Format.fl_nearest h x
  rw [sub_self, abs_zero, abs_nonpos_iff, sub_eq_zero] at hnear
  exact hnear.symm

/-- Equal numbers are rounded to equal numbers. -/
theorem Format.fl_congr (h : x.rat = y.rat) : (f.fl x).rat = (f.fl y).rat := by
  by_cases hx : x.num = 0
  · have hzero : f.Has 0 := ⟨0, f.minExp, by simp, le_rfl, by simp⟩
    have hx' := Dy.rat_eq_zero_iff.mpr hx
    rw [Format.fl_rat_of_has (hx'.symm ▸ hzero), Format.fl_rat_of_has (h ▸ hx'.symm ▸ hzero), h]
  · obtain ⟨M, hM, hMround⟩ := f.fl_rat x
    obtain ⟨N, hN, hNround⟩ := f.fl_rat y
    rw [h, Format.lastExp_congr hx h] at hMround
    rw [hM, hN, Format.lastExp_congr hx h, le_antisymm (hMround.le hNround le_rfl) (hNround.le hMround le_rfl)]

/-- Rounding is monotone: results in the wrong order would have their midpoint below x and above y (R154). -/
theorem Format.fl_mono (h : x.rat ≤ y.rat) : (f.fl x).rat ≤ (f.fl y).rat := by
  rcases h.eq_or_lt with heq | hlt
  · exact (Format.fl_congr heq).le
  · by_contra hgt
    have hx := sq_le_sq.mpr (Format.fl_nearest (f.has_fl y) x)
    have hy := sq_le_sq.mpr (Format.fl_nearest (f.has_fl x) y)
    have hmidx : (f.fl x).rat + (f.fl y).rat ≤ 2 * x.rat := by nlinarith
    have hmidy : 2 * y.rat ≤ (f.fl x).rat + (f.fl y).rat := by nlinarith
    linarith

end Sys2Proof.Machine
end

section
/-! PROOFS. The encodings of a format, field by field, and the numbers they stand for (42_convert.md R150). -/

namespace Sys2Proof.Machine

variable {f : Format} {y : Dy} {e fr : Nat}

/-! An encoding from its sign bit, exponent field and fraction field. -/

/-- The encoding with a sign bit, an exponent field e and a fraction field fr. -/
def Format.word (f : Format) (neg : Bool) (e fr : Nat) : Nat :=
  (if neg then 2 ^ (f.frac + f.expo) else 0) + (e * 2 ^ f.frac + fr)

/-- The significand of an exponent field and a fraction field: with the leading 1 where the exponent field is not 0. -/
def Format.significand (f : Format) (e fr : Nat) : Nat := if e = 0 then fr else 2 ^ f.frac + fr

/-- The exponent of the last bit at an exponent field. -/
def Format.fieldExp (f : Format) (e : Nat) : ℤ := (max e 1 : Nat) - 1 + f.minExp

/-- An encoding as wide as the format, neither an infinity nor a NaN. -/
def Format.Finite (f : Format) (b : Nat) : Prop :=
  b < 2 ^ (1 + f.expo + f.frac) ∧ b / 2 ^ f.frac % 2 ^ f.expo ≠ 2 ^ f.expo - 1

theorem Format.word_eq (f : Format) (neg : Bool) (e fr : Nat) :
    f.word neg e fr = fr + 2 ^ f.frac * (e + 2 ^ f.expo * neg.toNat) := by
  cases neg <;> simp [Format.word] <;> ring

theorem Format.word_mod (hfr : fr < 2 ^ f.frac) (neg : Bool) : f.word neg e fr % 2 ^ f.frac = fr := by
  rw [f.word_eq, Nat.add_mul_mod_self_left, Nat.mod_eq_of_lt hfr]

theorem Format.word_div (hfr : fr < 2 ^ f.frac) (neg : Bool) :
    f.word neg e fr / 2 ^ f.frac = e + 2 ^ f.expo * neg.toNat := by
  rw [f.word_eq, Nat.add_mul_div_left _ _ (Nat.two_pow_pos _), Nat.div_eq_of_lt hfr, Nat.zero_add]

theorem Format.word_div_mod (hfr : fr < 2 ^ f.frac) (he : e < 2 ^ f.expo) (neg : Bool) :
    f.word neg e fr / 2 ^ f.frac % 2 ^ f.expo = e := by
  rw [Format.word_div hfr, Nat.add_mul_mod_self_left, Nat.mod_eq_of_lt he]

theorem Format.word_div_div (hfr : fr < 2 ^ f.frac) (he : e < 2 ^ f.expo) (neg : Bool) :
    f.word neg e fr / 2 ^ (f.frac + f.expo) = neg.toNat := by
  rw [pow_add, ← Nat.div_div_eq_div_mul, Format.word_div hfr, Nat.add_mul_div_left _ _ (Nat.two_pow_pos _),
    Nat.div_eq_of_lt he, Nat.zero_add]

/-- What the encoding with given fields stands for. -/
theorem Format.value_word (hfr : fr < 2 ^ f.frac) (he : e < 2 ^ f.expo) (neg : Bool) :
    f.value (f.word neg e fr) =
      ⟨if neg then -(f.significand e fr : ℤ) else f.significand e fr, f.fieldExp e⟩ := by
  unfold Format.value
  rw [Format.word_mod hfr, Format.word_div_mod hfr he, Format.word_div_div hfr he]
  cases neg <;> rfl

theorem Format.word_finite (hfr : fr < 2 ^ f.frac) (he : e + 1 < 2 ^ f.expo) (neg : Bool) :
    f.Finite (f.word neg e fr) := by
  refine ⟨?_, ?_⟩
  · have hdiv := Format.word_div_div hfr (by omega : e < 2 ^ f.expo) neg
    have hwidth : 1 + f.expo + f.frac = 1 + (f.frac + f.expo) := by omega
    rw [hwidth, pow_add, ← Nat.div_lt_iff_lt_mul (Nat.two_pow_pos _), hdiv]
    exact Bool.toNat_lt neg
  · rw [Format.word_div_mod hfr (by omega)]
    omega

/-- Every finite encoding is made of its fields. -/
theorem Format.Finite.exists_word {b : Nat} (h : f.Finite b) :
    ∃ neg e fr, fr < 2 ^ f.frac ∧ e + 1 < 2 ^ f.expo ∧ b = f.word neg e fr := by
  obtain ⟨hlt, hexp⟩ := h
  have he := Nat.mod_lt (b / 2 ^ f.frac) (Nat.two_pow_pos f.expo)
  refine ⟨decide (b / 2 ^ f.frac / 2 ^ f.expo = 1), b / 2 ^ f.frac % 2 ^ f.expo, b % 2 ^ f.frac,
    Nat.mod_lt _ (Nat.two_pow_pos _), by omega, ?_⟩
  have hsign : b / 2 ^ f.frac / 2 ^ f.expo < 2 := by
    rw [Nat.div_div_eq_div_mul, Nat.div_lt_iff_lt_mul (by positivity)]
    calc b < 2 ^ (1 + f.expo + f.frac) := hlt
      _ = 2 * (2 ^ f.frac * 2 ^ f.expo) := by ring
  have hneg : (decide (b / 2 ^ f.frac / 2 ^ f.expo = 1)).toNat = b / 2 ^ f.frac / 2 ^ f.expo := by
    interval_cases b / 2 ^ f.frac / 2 ^ f.expo <;> rfl
  rw [f.word_eq, hneg, Nat.mod_add_div, Nat.mod_add_div]

theorem Format.significand_lt (hfr : fr < 2 ^ f.frac) : f.significand e fr < 2 ^ (f.frac + 1) := by
  rw [pow_succ, Format.significand]
  split <;> omega

theorem Format.minExp_le_fieldExp (f : Format) (e : Nat) : f.minExp ≤ f.fieldExp e := by
  rw [Format.fieldExp]
  omega

/-- The number with given fields. -/
theorem Format.value_word_rat (hfr : fr < 2 ^ f.frac) (he : e < 2 ^ f.expo) (neg : Bool) :
    (f.value (f.word neg e fr)).rat =
      if neg then -(f.significand e fr * 2 ^ f.fieldExp e : ℚ) else f.significand e fr * 2 ^ f.fieldExp e := by
  rw [Format.value_word hfr he, Dy.rat]
  cases neg <;> simp

/-- A finite encoding stands for a number of the format. -/
theorem Format.Finite.has_value {b : Nat} (h : f.Finite b) : f.Has (f.value b).rat := by
  obtain ⟨neg, e, fr, hfr, he, rfl⟩ := h.exists_word
  have hsig := Format.significand_lt (e := e) hfr
  refine ⟨if neg then -(f.significand e fr : ℤ) else f.significand e fr, f.fieldExp e, ?_, f.minExp_le_fieldExp e, ?_⟩
  · zify at hsig
    cases neg <;> simpa using hsig.le
  · rw [Format.value_word hfr (by omega), Dy.rat]

/-! The encoding of a number. -/

/-- Leading bits that are all of a number's bits. -/
theorem leadingBits_eq {n top k M : Nat} (h : n * 2 ^ k = M * 2 ^ top) : leadingBits n top k = M := by
  unfold leadingBits
  split
  next hle =>
    refine Nat.eq_of_mul_eq_mul_right (Nat.two_pow_pos top) ?_
    rw [← h, mul_assoc, ← pow_add, Nat.sub_add_cancel hle]
  next hgt =>
    have hle := (not_le.mp hgt).le
    refine Nat.div_eq_of_eq_mul_left (Nat.two_pow_pos _) (Nat.eq_of_mul_eq_mul_right (Nat.two_pow_pos k) ?_)
    rw [h, mul_assoc, ← pow_add, Nat.sub_add_cancel hle]

/-- The leading bits of a number whose last bit is at exponent L are its significand. -/
theorem Dy.leadingBits_eq {M : Nat} {L : ℤ} (hrat : |y.rat| = M * 2 ^ L) (hL : L ≤ y.place) :
    leadingBits y.num.natAbs y.num.natAbs.log2 (y.place - L).toNat = M := by
  refine Machine.leadingBits_eq ?_
  have hplace := two_zpow_split hL
  rw [Dy.place, two_zpow_add_natCast, ← Dy.place] at hplace
  rw [y.abs_rat] at hrat
  have hpos := mul_pos (two_zpow_pos y.exp) (two_zpow_pos L)
  generalize y.num.natAbs = n at *
  have hscaled : (n * 2 ^ (y.place - L).toNat : ℚ) = M * 2 ^ n.log2 := mul_right_cancel₀ hpos.ne' <| calc
    (n * 2 ^ (y.place - L).toNat : ℚ) * (2 ^ y.exp * 2 ^ L)
      = (n * 2 ^ y.exp) * (2 ^ (y.place - L).toNat * 2 ^ L) := by ring
    _ = (M * 2 ^ L) * (2 ^ n.log2 * 2 ^ y.exp) := by rw [hrat, hplace]
    _ = (M * 2 ^ n.log2 : ℚ) * (2 ^ y.exp * 2 ^ L) := by ring
  exact_mod_cast hscaled

/-- The encoding by the place of the leading bit: subnormal, infinite, normal. -/
theorem Format.bits_eq (f : Format) (hy : y.num ≠ 0) :
    f.bits y = (if decide (y.num < 0) then 2 ^ (f.frac + f.expo) else 0) +
      if y.place + f.bias < 1 then leadingBits y.num.natAbs y.num.natAbs.log2 (y.place - f.minExp).toNat
      else if 2 ^ f.expo - 1 ≤ y.place + f.bias then (2 ^ f.expo - 1) * 2 ^ f.frac
      else (y.place + f.bias).toNat * 2 ^ f.frac +
        (leadingBits y.num.natAbs y.num.natAbs.log2 f.frac - 2 ^ f.frac) := by
  have hplace : y.exp + y.num.natAbs.log2 = y.place := rfl
  simp only [Format.bits, Int.natAbs_eq_zero, hy, if_false, hplace, decide_eq_true_eq, Nat.add_assoc, add_ite]

/-- The encoding with the fields of a number's magnitude is the number's. -/
theorem Format.bits_eq_word (hy : y.num ≠ 0) (hfr : fr < 2 ^ f.frac) (he : e + 1 < 2 ^ f.expo)
    (hrat : |y.rat| = f.significand e fr * 2 ^ f.fieldExp e) : f.bits y = f.word (decide (y.num < 0)) e fr := by
  have hmin : f.minExp = 1 - (f.bias : ℤ) - f.frac := rfl
  rw [f.bits_eq hy, Format.word]
  congr 1
  rcases e with _ | e
  · have hexp : f.fieldExp 0 = f.minExp := by simp [Format.fieldExp]
    have hsig : f.significand 0 fr = fr := rfl
    rw [hexp, hsig] at hrat
    have hlt : y.place < f.minExp + f.frac := by
      refine Dy.place_lt hy ?_
      rw [hrat, two_zpow_add_natCast]
      gcongr
      exact_mod_cast hfr
    have hle : f.minExp ≤ y.place := by
      refine Dy.le_place ?_
      have hfr0 : fr ≠ 0 := by
        rintro rfl
        exact hy (Dy.rat_eq_zero_iff.mp (abs_eq_zero.mp (by rw [hrat]; simp)))
      rw [hrat]
      exact le_mul_of_one_le_left (two_zpow_pos _).le (by exact_mod_cast Nat.one_le_iff_ne_zero.mpr hfr0)
    rw [if_pos (by omega), Dy.leadingBits_eq hrat hle]
    simp
  · have hexp : f.fieldExp (e + 1) = e + f.minExp := by simp [Format.fieldExp]
    have hsig : f.significand (e + 1) fr = 2 ^ f.frac + fr := rfl
    rw [hexp, hsig] at hrat
    have hplace : y.place = e + f.minExp + f.frac := by
      refine le_antisymm (Int.lt_add_one_iff.mp (Dy.place_lt hy ?_)) (Dy.le_place ?_)
      · rw [hrat, add_assoc, ← Nat.cast_add_one, two_zpow_add_natCast, pow_succ]
        gcongr
        have hfr' : (fr : ℚ) < 2 ^ f.frac := by exact_mod_cast hfr
        push_cast
        linarith
      · rw [hrat, two_zpow_add_natCast]
        gcongr
        push_cast
        linarith [fr.cast_nonneg (α := ℚ)]
    have hkept : (y.place - (e + f.minExp)).toNat = f.frac := by omega
    have hlead := Dy.leadingBits_eq hrat (by omega)
    rw [hkept] at hlead
    have hfield : y.place + f.bias = (e + 1 : Nat) := by push_cast; omega
    have hroom : ¬(2 ^ f.expo - 1 ≤ ((e + 1 : Nat) : ℤ)) := by zify at he; push_cast; omega
    rw [hfield, if_neg (by omega), if_neg hroom, hlead, Int.toNat_natCast]
    omega

/-- A number of the format, not too great for it, is the magnitude of some fields. -/
theorem Format.Has.exists_fields (hexpo : 0 < f.expo) (h : f.Has y.rat) (hy : y.num ≠ 0)
    (hroom : y.place + f.bias + 1 < 2 ^ f.expo) :
    ∃ e fr, fr < 2 ^ f.frac ∧ e + 1 < 2 ^ f.expo ∧ |y.rat| = f.significand e fr * 2 ^ f.fieldExp e := by
  have hmin : f.minExp = 1 - (f.bias : ℤ) - f.frac := rfl
  have hL := f.minExp_le_lastExp y
  obtain ⟨M, hM⟩ : ∃ M : Nat, |y.rat| = M * 2 ^ f.lastExp y := by
    obtain ⟨N, hN⟩ | ⟨hlt, hsmall⟩ := h.multiple_or_small (f.lastExp y)
    · exact ⟨N.natAbs, by rw [hN, abs_mul, abs_of_pos (two_zpow_pos _), Nat.cast_natAbs, Int.cast_abs]⟩
    · exact absurd (Format.le_abs_rat_at_lastExp hy hlt) hsmall.not_ge
  have hMlt : M < 2 ^ (f.frac + 1) := by
    have := hM ▸ f.abs_rat_lt_at_lastExp y
    exact_mod_cast lt_of_mul_lt_mul_right this (two_zpow_pos _).le
  by_cases hnormal : 2 ^ f.frac ≤ M
  · have hplace : f.lastExp y + f.frac ≤ y.place := by
      refine Dy.le_place ?_
      rw [hM, two_zpow_add_natCast]
      gcongr
      exact_mod_cast hnormal
    obtain ⟨s, hs⟩ := Int.le.dest hL
    refine ⟨s + 1, M - 2 ^ f.frac, by omega, by zify; omega, ?_⟩
    have hsig : f.significand (s + 1) (M - 2 ^ f.frac) = M := Nat.add_sub_cancel' hnormal
    have hexp : f.fieldExp (s + 1) = f.lastExp y := by simp [Format.fieldExp, ← hs, add_comm]
    rw [hsig, hexp, hM]
  · have hLmin : f.lastExp y = f.minExp := by
      refine hL.antisymm' (not_lt.mp fun hlt => hnormal ?_)
      have := hM ▸ Format.le_abs_rat_at_lastExp hy hlt
      exact_mod_cast le_of_mul_le_mul_right this (two_zpow_pos _)
    refine ⟨0, M, not_le.mp hnormal, Nat.one_lt_two_pow hexpo.ne', ?_⟩
    rw [hM, hLmin]
    simp [Format.significand, Format.fieldExp]

/-- A number with the magnitude of some fields is encoded with them, and the encoding stands for it. -/
theorem Format.bits_of_fields (hfr : fr < 2 ^ f.frac) (he : e + 1 < 2 ^ f.expo)
    (hrat : |y.rat| = f.significand e fr * 2 ^ f.fieldExp e) (hy : y.num ≠ 0) :
    f.Finite (f.bits y) ∧ (f.value (f.bits y)).rat = y.rat := by
  rw [Format.bits_eq_word hy hfr he hrat, Format.value_word_rat hfr (by omega), ← hrat]
  refine ⟨Format.word_finite hfr he _, ?_⟩
  simp only [decide_eq_true_eq, ← Dy.rat_neg_iff]
  split
  next h => rw [abs_of_neg h, neg_neg]
  next h => rw [abs_of_nonneg (not_lt.mp h)]

theorem Format.bits_zero (hy : y.num = 0) : f.bits y = f.word false 0 0 := by simp [Format.bits, Format.word, hy]

/-- A number of the format, not too great for it, has a finite encoding, which stands for it. -/
theorem Format.Has.bits (hexpo : 0 < f.expo) (h : f.Has y.rat) (hroom : y.num ≠ 0 → y.place + f.bias + 1 < 2 ^ f.expo) :
    f.Finite (f.bits y) ∧ (f.value (f.bits y)).rat = y.rat := by
  by_cases hy : y.num = 0
  · have he : 0 + 1 < 2 ^ f.expo := Nat.one_lt_two_pow hexpo.ne'
    rw [Format.bits_zero hy, Format.value_word_rat (Nat.two_pow_pos _) (by omega), Dy.rat_eq_zero_iff.mpr hy]
    exact ⟨Format.word_finite (Nat.two_pow_pos _) he false, by simp [Format.significand]⟩
  · obtain ⟨e, fr, hfr, he, hrat⟩ := h.exists_fields hexpo hy (hroom hy)
    exact Format.bits_of_fields hfr he hrat hy

/-- A number too great for the format is encoded as an infinity. -/
theorem Format.Finite.room (hexpo : 0 < f.expo) (h : f.Finite (f.bits y)) (hy : y.num ≠ 0) :
    y.place + f.bias + 1 < 2 ^ f.expo := by
  by_contra hge
  have hone := Nat.one_lt_two_pow hexpo.ne'
  have hword : f.bits y = f.word (decide (y.num < 0)) (2 ^ f.expo - 1) 0 := by
    have hnormal : ¬(y.place + f.bias < 1) := by zify at hone; omega
    have htop : 2 ^ f.expo - 1 ≤ y.place + f.bias := by omega
    rw [f.bits_eq hy, if_neg hnormal, if_pos htop, Format.word, Nat.add_zero]
  exact h.2 (hword ▸ Format.word_div_mod (Nat.two_pow_pos _) (by omega) _)

end Sys2Proof.Machine
end

section
/-! PROOFS. The two statements about the formats: rounding gives the nearest number, and an encoding stands for its number
and back (42_convert.md R150, R153). -/

namespace Sys2Proof.Machine

variable {f : Format}

/-! At a tie the last fraction bit is even. -/

theorem leadingBits_even {n k : Nat} (hn : Even n) (h : n.log2 ≤ k) : Even (leadingBits n n.log2 k) := by
  rw [leadingBits, if_pos h]
  exact hn.mul_right _

/-- An even significand, or the power of two it carries to, leaves the last fraction bit even. -/
theorem Format.bits_even (hfrac : 0 < f.frac) {y : Dy} (heven : Even y.num) (hle : |y.num| ≤ 2 ^ (f.frac + 1))
    (hexp : f.minExp ≤ y.exp) : Even (f.bits y) := by
  have hpow : Even (2 ^ f.frac) := even_two.pow_of_ne_zero hfrac.ne'
  by_cases h0 : y.num = 0
  · rw [Format.bits_zero h0]
    simp [Format.word]
  have hn : Even y.num.natAbs := Int.natAbs_even.mpr heven
  have hn0 : y.num.natAbs ≠ 0 := Int.natAbs_ne_zero.mpr h0
  have hle' : y.num.natAbs ≤ 2 ^ (f.frac + 1) := by zify; exact hle
  have hplace : y.place = y.exp + y.num.natAbs.log2 := rfl
  rw [f.bits_eq h0]
  refine Even.add ?_ ?_
  · split
    · rw [pow_add]; exact hpow.mul_right _
    · exact Even.zero
  · split
    · exact leadingBits_even hn (by rw [hplace]; omega)
    · split
      · exact hpow.mul_left _
      · refine (hpow.mul_left _).add ?_
        rcases hle'.lt_or_eq with hlt | heq
        · exact (leadingBits_even hn (Nat.lt_succ_iff.mp ((Nat.log2_lt hn0).mpr hlt))).tsub hpow
        · have hlead : leadingBits y.num.natAbs y.num.natAbs.log2 f.frac = 2 ^ f.frac := by
            rw [heq, Nat.log2_two_pow]
            exact leadingBits_eq (Nat.mul_comm _ _)
          rw [hlead, Nat.sub_self]
          exact Even.zero

/-- Settles O21: a finite rounded number is a number of the format, and `Format.fl_nearest` compares it with the others. -/
theorem roundingIsToNearestEven : Obligations.RoundingIsToNearestEven := by
  unfold Obligations.RoundingIsToNearestEven
  intro rat
  refine ⟨roundEven_nearest, fun x y => ⟨Dy.mul_rat x y, Dy.sub_rat x y⟩, fun f x hf => ?_⟩
  intro finite hfin
  have hfrac : 0 < f.frac := by rcases hf with rfl | rfl <;> decide
  have hexpo : 0 < f.expo := by rcases hf with rfl | rfl <;> decide
  have hvalue := ((f.has_fl x).bits hexpo (Format.Finite.room hexpo hfin)).2
  refine ⟨hvalue, fun b hb => ?_⟩
  have hhas := Format.Finite.has_value hb
  refine ⟨Format.fl_nearest hhas x, fun htie hne => ?_⟩
  obtain ⟨M, hfl, hle, heven⟩ := Format.fl_even_of_tie hhas hne htie
  rw [← Nat.even_iff, hfl]
  exact Format.bits_even hfrac heven hle (f.minExp_le_lastExp x)

/-! The fields of an encoding as bits of a register. -/

/-- The number of an encoding by its sign bit, its exponent field and its fraction field. -/
theorem Format.value_rat {w : Nat} (f : Format) (b : BitVec w) :
    let sign : ℚ := if b.getLsbD (f.frac + f.expo) then -1 else 1
    let e := (b.extractLsb' f.frac f.expo).toNat
    let m : ℚ := (b.extractLsb' 0 f.frac).toNat / 2 ^ f.frac
    (f.value b.toNat).rat =
      if e = 0 then sign * m * 2 ^ (1 - f.bias : ℤ) else sign * (1 + m) * 2 ^ ((e : ℤ) - f.bias) := by
  intro sign e m
  have hsign : sign = if b.toNat / 2 ^ (f.frac + f.expo) % 2 = 1 then -1 else 1 := by
    simp only [sign, BitVec.getLsbD, Nat.testBit_eq_decide_div_mod_eq, decide_eq_true_eq]
  have he : b.toNat / 2 ^ f.frac % 2 ^ f.expo = e := by
    simp only [e, BitVec.extractLsb'_toNat, Nat.shiftRight_eq_div_pow]
  have hm : ((b.toNat % 2 ^ f.frac : Nat) : ℚ) = m * 2 ^ f.frac := by simp [m]
  have hpow (k : ℤ) : (2 : ℚ) ^ (k - f.bias) = 2 ^ f.frac * 2 ^ (k - 1 + f.minExp) := by
    rw [← two_zpow_add_natCast, Format.minExp]
    congr 1
    ring
  simp only [Dy.rat, Format.value, he, hpow, hsign]
  generalize b.toNat % 2 ^ f.frac = fr at hm
  rcases Nat.eq_zero_or_pos e with h0 | hpos
  · rw [h0]
    split <;> simp [hm, mul_assoc]
  · rw [if_neg hpos.ne', if_neg hpos.ne', max_eq_left hpos]
    split <;> push_cast <;> rw [hm] <;> ring

/-- Encoding the number of a finite encoding gives the encoding back, but for -0. -/
theorem Format.Finite.bits_value {b : Nat} (h : f.Finite b) (hb : b ≠ 2 ^ (f.frac + f.expo)) :
    f.bits (f.value b) = b := by
  obtain ⟨neg, e, fr, hfr, he, rfl⟩ := h.exists_word
  have hvalue := Format.value_word hfr (by omega : e < 2 ^ f.expo) neg
  rcases Nat.eq_zero_or_pos (f.significand e fr) with hsig | hsig
  · obtain ⟨rfl, rfl⟩ : e = 0 ∧ fr = 0 := by
      rw [Format.significand] at hsig
      split at hsig <;> omega
    cases neg
    · exact Format.bits_zero (by rw [hvalue]; rfl)
    · exact absurd (by simp [Format.word]) hb
  · have hneg : decide ((f.value (f.word neg e fr)).num < 0) = neg := by
      rw [hvalue]
      cases neg <;> simp [hsig]
    have hnum : (f.value (f.word neg e fr)).num ≠ 0 := by
      rw [hvalue]
      cases neg <;> simp [hsig.ne']
    have habs : |(f.value (f.word neg e fr)).rat| = f.significand e fr * 2 ^ f.fieldExp e := by
      rw [Format.value_word_rat hfr (by omega)]
      have hnonneg : (0 : ℚ) ≤ f.significand e fr * 2 ^ f.fieldExp e := by positivity
      cases neg <;> simp [abs_of_nonneg hnonneg]
    rw [Format.bits_eq_word hnum hfr he habs, hneg]

/-- A register as wide as the format holds a finite encoding where its exponent field is not all ones. -/
theorem Format.finite_toNat {w : Nat} {b : BitVec w} (hw : w = 1 + f.expo + f.frac)
    (h : (b.extractLsb' f.frac f.expo).toNat ≠ 2 ^ f.expo - 1) : f.Finite b.toNat := by
  rw [BitVec.extractLsb'_toNat, Nat.shiftRight_eq_div_pow] at h
  exact ⟨hw ▸ b.isLt, h⟩

/-- Settles O22: `Format.value_rat` and `Format.Finite.bits_value` at the two formats. -/
theorem encodingsStandForTheirValues : Obligations.EncodingsStandForTheirValues := by
  refine ⟨fun b hb => ⟨binary64.value_rat b, fun hne => ?_⟩, fun b hb => ⟨binary32.value_rat b, fun hne => ?_⟩⟩
  · have hfinite : binary64.Finite b.toNat := Format.finite_toNat rfl fun h => hb (BitVec.eq_of_toNat_eq h)
    exact hfinite.bits_value fun h => hne (BitVec.eq_of_toNat_eq h)
  · have hfinite : binary32.Finite b.toNat := Format.finite_toNat rfl fun h => hb (BitVec.eq_of_toNat_eq h)
    exact hfinite.bits_value fun h => hne (BitVec.eq_of_toNat_eq h)

end Sys2Proof.Machine
end

section
/-! PROOFS. What the converter gives: exact humidity results, and results that grow with the raw count, stay normal and lie
in range (42_convert.md R154, R158). -/

namespace Sys2Proof.Machine

variable {f : Format} {y : Dy} {k1 k2 : BitVec 64}

/-! A result register holds the number encoded in it. -/

/-- A number of the format that is below the first infinite power of two has a finite encoding. -/
theorem Format.Has.finite_bits (hexpo : 0 < f.expo) (h : f.Has y.rat) (hlt : |y.rat| < 2 ^ (f.bias + 1)) :
    f.Finite (f.bits y) ∧ (f.value (f.bits y)).rat = y.rat := by
  refine h.bits hexpo fun hy => ?_
  have hplace : y.place < (f.bias + 1 : Nat) := Dy.place_lt hy (by rwa [zpow_natCast])
  have hbias : 2 * (f.bias + 1) = 2 ^ f.expo := by
    rw [Format.bias, Nat.sub_add_cancel Nat.one_le_two_pow, ← pow_succ', Nat.sub_add_cancel hexpo]
  zify at hbias
  push_cast at hplace
  omega

theorem Format.Finite.toNat_ofNat {b : Nat} (h : f.Finite b) {w : Nat} (hw : w = 1 + f.expo + f.frac) :
    (BitVec.ofNat w b).toNat = b := by
  rw [BitVec.toNat_ofNat, hw, Nat.mod_eq_of_lt h.1]

/-- A finite encoding's exponent field is not 0 where its number is at least the smallest normal one. -/
theorem Format.Finite.field_ne_zero {b : Nat} (h : f.Finite b) (hle : 2 ^ (f.minExp + f.frac) ≤ |(f.value b).rat|) :
    b / 2 ^ f.frac % 2 ^ f.expo ≠ 0 := by
  obtain ⟨neg, e, fr, hfr, he, rfl⟩ := h.exists_word
  rw [Format.word_div_mod hfr (by omega)]
  rintro rfl
  have habs : |(f.value (f.word neg 0 fr)).rat| = fr * 2 ^ f.minExp := by
    rw [Format.value_word_rat hfr (by omega)]
    cases neg <;> simp [Format.significand, Format.fieldExp, abs_of_pos (two_zpow_pos _)]
  rw [habs, two_zpow_add_natCast] at hle
  have hle' : 2 ^ f.frac ≤ fr := by exact_mod_cast le_of_mul_le_mul_right hle (two_zpow_pos _)
  omega

theorem Format.abs_lt_of_le (hf : f = binary64 ∨ f = binary32) {q : ℚ} (h : |q| ≤ 2 ^ 8) : |q| < 2 ^ (f.bias + 1) := by
  refine h.trans_lt (pow_lt_pow_right₀ one_lt_two ?_)
  rcases hf with rfl | rfl <;> decide

/-- A result register holds the number encoded in it, where that is a number of the format and no greater than any
result of the converter. -/
theorem Format.Has.register (hf : f = binary64 ∨ f = binary32) (h : f.Has y.rat) (hle : |y.rat| ≤ 2 ^ 8) {w : Nat}
    (hw : w = 1 + f.expo + f.frac) :
    f.Finite (BitVec.ofNat w (f.bits y)).toNat ∧ (f.value (BitVec.ofNat w (f.bits y)).toNat).rat = y.rat := by
  have hexpo : 0 < f.expo := by rcases hf with rfl | rfl <;> decide
  have hbits := h.finite_bits hexpo (Format.abs_lt_of_le hf hle)
  rwa [hbits.1.toNat_ofNat hw]

/-! Humidity. -/

theorem kH1_rat : (value64 kH1).rat = 125 := by
  rw [show value64 kH1 = ⟨125 * 2 ^ 46, -46⟩ by decide +kernel, Dy.rat]
  norm_num

theorem kH2_rat : (value64 kH2).rat = 6 := by
  rw [show value64 kH2 = ⟨6 * 2 ^ 50, -50⟩ by decide +kernel, Dy.rat]
  norm_num

/-- A 24-bit multiple of 2^-16 is a number of both formats (R158). -/
theorem Format.has_mul_two_zpow_neg16 (hf : f = binary64 ∨ f = binary32) {n : ℤ} (hn : |n| ≤ 2 ^ 24) :
    f.Has (⟨n, -16⟩ : Dy).rat := by
  refine ⟨n, -16, hn.trans ?_, ?_, rfl⟩ <;> rcases hf with rfl | rfl <;> decide

/-- Neither rounding of a humidity conversion changes anything (R158). -/
theorem measure_humidity_rat (raw : BitVec 16) :
    (measure raw kH1 kH2).rat = (⟨125 * raw.toNat - 393216, -16⟩ : Dy).rat := by
  have hraw := raw.isLt
  have hproduct : ((quotient raw).mul (value64 kH1)).rat = (⟨125 * raw.toNat, -16⟩ : Dy).rat := by
    rw [Dy.mul_rat, kH1_rat, Dy.rat, Dy.rat, quotient]
    push_cast
    ring
  have hfirst := Format.fl_rat_of_has (hproduct ▸ Format.has_mul_two_zpow_neg16 (.inl rfl) (by rw [abs_le]; omega))
  have hdifference : ((binary64.fl ((quotient raw).mul (value64 kH1))).sub (value64 kH2)).rat =
      (⟨125 * raw.toNat - 393216, -16⟩ : Dy).rat := by
    rw [Dy.sub_rat, hfirst, hproduct, kH2_rat, Dy.rat, Dy.rat]
    push_cast
    norm_num
    ring
  have hsecond := Format.fl_rat_of_has (hdifference ▸ Format.has_mul_two_zpow_neg16 (.inl rfl) (by rw [abs_le]; omega))
  rw [measure, hsecond, hdifference]

/-- Settles O24: the result is a number of both formats, so the further rounding of RES32 changes nothing either. -/
theorem humidityIsExact : Obligations.HumidityIsExact := by
  intro raw _
  have hraw := raw.isLt
  have hexact := measure_humidity_rat raw
  have hn : |(125 * raw.toNat - 393216 : ℤ)| ≤ 2 ^ 24 := by rw [abs_le]; omega
  have hsmall : |(measure raw kH1 kH2).rat| ≤ 2 ^ 8 := by
    have hn' : |((125 * raw.toNat - 393216 : ℤ) : ℚ)| ≤ 2 ^ 24 := by exact_mod_cast hn
    rw [hexact, Dy.rat, abs_mul, abs_of_pos (two_zpow_pos _)]
    norm_num at hn' ⊢
    linarith
  have h64 : binary64.Has (measure raw kH1 kH2).rat := hexact ▸ Format.has_mul_two_zpow_neg16 (.inl rfl) hn
  have h32 : binary32.Has (measure raw kH1 kH2).rat := hexact ▸ Format.has_mul_two_zpow_neg16 (.inr rfl) hn
  have hkept := Format.fl_rat_of_has h32
  rw [Dy.same_iff, Dy.same_iff, ← hexact]
  refine ⟨(h64.register (.inl rfl) hsmall rfl).2, ?_⟩
  rw [← hkept] at h32 hsmall ⊢
  exact (h32.register (.inr rfl) hsmall rfl).2

/-! The order of the results. -/

/-- The result never decreases as the raw count grows: each of the three operations is monotone (R154). -/
theorem measure_mono (hk : 0 ≤ (value64 k1).rat) {a b : BitVec 16} (h : a ≤ b) :
    (measure a k1 k2).rat ≤ (measure b k1 k2).rat := by
  have hquotient : (quotient a).rat ≤ (quotient b).rat := by
    have hcount : (a.toNat : ℚ) ≤ b.toNat := by exact_mod_cast BitVec.le_def.mp h
    simp only [Dy.rat, quotient, Int.cast_natCast]
    gcongr
  refine Format.fl_mono ?_
  rw [Dy.sub_rat, Dy.sub_rat]
  refine sub_le_sub_right (Format.fl_mono ?_) _
  rw [Dy.mul_rat, Dy.mul_rat]
  exact mul_le_mul_of_nonneg_right hquotient hk

/-- Where the results of two neighbouring counts lie on either side of 0, and none is great, every result is a normal
number: no count lies between the two. -/
theorem measure64_normal (hk : 0 ≤ (value64 k1).rat) {m n : BitVec 16} (hmn : m.toNat + 1 = n.toNat)
    (hends : Dy.le ⟨-256, 0⟩ (measure 0 k1 k2) ∧ (measure m k1 k2).le ⟨-1, -100⟩ ∧
      Dy.le ⟨1, -100⟩ (measure n k1 k2) ∧ (measure 0xFFFF k1 k2).le ⟨256, 0⟩) (a : BitVec 16) :
    (measure64 a k1 k2).extractLsb' 52 11 ≠ 0 ∧ (measure64 a k1 k2).extractLsb' 52 11 ≠ 0x7FF := by
  simp only [Dy.le_iff] at hends
  obtain ⟨hlow, hm, hn, hhigh⟩ := hends
  have hle : |(measure a k1 k2).rat| ≤ 2 ^ 8 := by
    have hlow' := hlow.trans (measure_mono (k2 := k2) hk (BitVec.le_def.mpr a.toNat.zero_le))
    have hhigh' := (measure_mono (k2 := k2) hk (BitVec.le_def.mpr (Nat.le_of_lt_succ a.isLt))).trans hhigh
    rw [abs_le]
    norm_num [Dy.rat] at hlow' hhigh' ⊢
    exact ⟨hlow', hhigh'⟩
  have hge : 2 ^ (-100 : ℤ) ≤ |(measure a k1 k2).rat| := by
    rcases le_or_gt a.toNat m.toNat with h | h
    · have hneg := (measure_mono (k2 := k2) hk (BitVec.le_def.mpr h)).trans hm
      refine le_abs.mpr (.inr (le_neg.mp (hneg.trans_eq ?_)))
      simp [Dy.rat]
    · have hna : n ≤ a := BitVec.le_def.mpr (by omega)
      have hpos := hn.trans (measure_mono (k2 := k2) hk hna)
      refine le_abs.mpr (.inl (le_of_eq_of_le ?_ hpos))
      simp [Dy.rat]
  obtain ⟨hfinite, hvalue⟩ := (binary64.has_fl _).register (.inl rfl) hle (w := 64) rfl
  have hfield := hfinite.field_ne_zero (by rw [hvalue]; exact (two_zpow_mono (by decide)).trans hge)
  have hextract : ((measure64 a k1 k2).extractLsb' 52 11).toNat = (measure64 a k1 k2).toNat / 2 ^ 52 % 2 ^ 11 := by
    rw [BitVec.extractLsb'_toNat, Nat.shiftRight_eq_div_pow]
  exact ⟨fun h => hfield (hextract.symm.trans (congrArg BitVec.toNat h)),
    fun h => hfinite.2 (hextract.symm.trans (congrArg BitVec.toNat h))⟩

theorem kT1_rat_nonneg : 0 ≤ (value64 kT1).rat := by
  rw [show value64 kT1 = ⟨6182597863449559, -45⟩ by decide +kernel, Dy.rat]
  norm_num

theorem kH1_rat_nonneg : 0 ≤ (value64 kH1).rat := by
  rw [kH1_rat]
  norm_num

/-- The greatest masked count is 0xFFFC (R152). -/
theorem le_0xFFFC_of_masked {a : BitVec 16} (h : a &&& 3 = 0) : a ≤ 0xFFFC := by
  have hmod : a.toNat % 4 = 0 := by
    rw [← Nat.and_two_pow_sub_one_eq_mod a.toNat 2]
    exact congrArg BitVec.toNat h
  have hlt := a.isLt
  exact BitVec.le_def.mpr (show a.toNat ≤ 65532 by omega)

/-- Temperature at the ends of the counts, and at the two counts on either side of its zero. -/
theorem measure_T_ends : Dy.le ⟨-256, 0⟩ (measure 0 kT1 kT2) ∧ (measure 17473 kT1 kT2).le ⟨-1, -100⟩ ∧
    Dy.le ⟨1, -100⟩ (measure 17474 kT1 kT2) ∧ (measure 0xFFFF kT1 kT2).le ⟨256, 0⟩ := by
  unfold Dy.le
  decide +kernel

/-- Humidity at the ends of the counts, and at the two counts on either side of its zero. -/
theorem measure_H_ends : Dy.le ⟨-256, 0⟩ (measure 0 kH1 kH2) ∧ (measure 3145 kH1 kH2).le ⟨-1, -100⟩ ∧
    Dy.le ⟨1, -100⟩ (measure 3146 kH1 kH2) ∧ (measure 0xFFFF kH1 kH2).le ⟨256, 0⟩ := by
  unfold Dy.le
  decide +kernel

/-- The stated ranges hold at the least and the greatest masked count. -/
theorem measure_range_ends : Dy.le ⟨-(value64 kT2).num, (value64 kT2).exp⟩ (measure 0 kT1 kT2) ∧
    (Dy.mul ⟨100, 0⟩ (measure 0xFFFC kT1 kT2)).le ⟨12886, 0⟩ ∧
    Dy.le ⟨-6, 0⟩ (measure 0 kH1 kH2) ∧ (measure 0xFFFC kH1 kH2).le ⟨119, 0⟩ := by
  unfold Dy.le
  decide +kernel

/-- Settles O25: all of it follows from `measure_mono` and the results at the ends of the range and next to 0. -/
theorem conversionIsMonotone : Obligations.ConversionIsMonotone := by
  refine ⟨fun a b _ _ hab => ?_, fun a ha => ?_⟩
  · rw [Dy.le_iff, Dy.le_iff]
    exact ⟨measure_mono kT1_rat_nonneg hab, measure_mono kH1_rat_nonneg hab⟩
  obtain ⟨hTfield, hTfield'⟩ := measure64_normal kT1_rat_nonneg rfl measure_T_ends a
  obtain ⟨hHfield, hHfield'⟩ := measure64_normal kH1_rat_nonneg rfl measure_H_ends a
  have hzero : 0 ≤ a := BitVec.le_def.mpr a.toNat.zero_le
  have hmax := le_0xFFFC_of_masked ha
  obtain ⟨hTlow, hThigh, hHlow, hHhigh⟩ := measure_range_ends
  simp only [Dy.le_iff, Dy.mul_rat] at hTlow hThigh hHlow hHhigh ⊢
  have hhundred : (0 : ℚ) ≤ (⟨100, 0⟩ : Dy).rat := by simp [Dy.rat]
  exact ⟨hTfield, hTfield', hHfield, hHfield', hTlow.trans (measure_mono kT1_rat_nonneg hzero),
    (mul_le_mul_of_nonneg_left (measure_mono kT1_rat_nonneg hmax) hhundred).trans hThigh,
    hHlow.trans (measure_mono kH1_rat_nonneg hzero), (measure_mono kH1_rat_nonneg hmax).trans hHhigh⟩

end Sys2Proof.Machine
end

section
/-! PROOFS. NOP and CLRSTAT (43_control.md R175, R176), and the launch of a command: a CMD write that finds no command
running is `launch`, by whichever way the step comes to it (R26, R170). -/

namespace Sys2Proof.Machine

/-- Settles O12: NOP is a completion and nothing else. -/
theorem nopCompletes : Obligations.NopCompletes := fun _ => rfl

/-- Settles O13: CLRSTAT is one write of the two flags and a completion. -/
theorem clrstatClearsTheStickyFlags : Obligations.ClrstatClearsTheStickyFlags := fun _ => rfl

/-- A CMD write that finds no command running launches its word (R26). -/
theorem hostWriteAt_cmd_of_not_busy {s : State} (hb : s.blk.status.busy = false) (v : Word) :
    hostWriteAt 0x08 v s = launch v s := by
  rw [hostWriteAt_of_offset (r := .cmd) rfl, hostWrite, writeCmd, if_neg (by simp [hb])]

/-- A legal word's launch is its command's meaning after the launch effects (R170). -/
theorem launch_of_decode_ok {v : Word} {i : Instr} (hd : decode v = .ok i) (s : State) :
    launch v s = exec i (s.launched v) := by simp only [launch, hd]

/-- A CMD write of a legal word, while no command runs. -/
theorem hostWriteAt_cmd_runs {s : State} {v : Word} {i : Instr} (hb : s.blk.status.busy = false)
    (hd : decode v = .ok i) : hostWriteAt 0x08 v s = exec i (s.launched v) :=
  (hostWriteAt_cmd_of_not_busy hb v).trans (launch_of_decode_ok hd s)

/-- The CMD write by its host address is the write at CMD's offset (R52). -/
theorem hostAccess_cmd (v : Word) (s : State) :
    hostAccess (.write (s.cfg.base + 0x08) 4 v) s = hostWriteAt 0x08 v s := by
  have hlocate : locate s.cfg.base (s.cfg.base + 0x08) 4 = .ok 0x08 := by
    rw [locate_of_aligned_word] <;> simp
  exact (hostAccess_of_located hlocate v).2

/-- A turn that is the CMD write of a legal word runs the command (R8, R170). -/
theorem step_of_cmd_access {s : State} {v : Word} {i : Instr} {rest : List Turn} (hb : s.blk.status.busy = false)
    (hd : decode v = .ok i) (hs : s.turns = .access (.write (s.cfg.base + 0x08) 4 v) :: rest) :
    step s = exec i (({ s with turns := rest } : State).launched v) := by
  rw [step_of_turns_cons hs]
  exact (hostAccess_cmd v { s with turns := rest }).trans (hostWriteAt_cmd_runs hb hd)

/-- Where no command runs and the engine is idle, placing a word adds its turn and nothing else (assumption 6). -/
theorem placeCommand_of_idle {s : State} (hb : s.blk.status.busy = false) (hp : s.blk.eng.phase = .idle) (v : Word) :
    placeCommand s v = { s with turns := cmdWriteTurn s v :: s.turns } := by
  have hstatus : { s.blk.status with busy := false } = s.blk.status := by rw [← hb]
  have heng : { s.blk.eng with phase := .idle } = s.blk.eng := by rw [← hp]
  rw [placeCommand, hstatus, heng]

/-- Settles O5: the listed access, the host's line and the placed word each come to the CMD write's launch. -/
theorem stepRunsTheDecodedCommand : Obligations.StepRunsTheDecodedCommand := by
  refine ⟨fun s v i rest hb hd hs => ?_, fun s v => ?_, fun s v i rest hb hd hs hline => ?_,
    fun s w i hw hd hb hp => ?_, fun s a rest hs => ?_⟩
  · exact step_of_cmd_access hb hd hs
  · rfl
  · rw [step_of_host_line (.inl hs) hline]
    exact hostWriteAt_cmd_runs (s := s.pastLine rest) hb hd
  · rw [State.withFetchWord, Nat.mod_eq_of_lt hw, placeCommand_of_idle hb hp]
    exact step_of_cmd_access hb hd rfl
  · exact step_of_turns_cons hs

end Sys2Proof.Machine
end

section
/-! PROOFS. Which commands outlive their launch, and who writes OVR (43_control.md R170, R171, R172, R176). -/

namespace Sys2Proof.Machine

/-- A bus command's launch on an open bus starts the engine (R102). -/
theorem Block.commanded_starts {i : Instr} {b b' : Block} (ho : b.status.isOpen = true)
    (hi : (∃ wb, i = .xferW wb) ∨ (∃ wb n, i = .xferWR wb n) ∨ ∃ n, i = .xferR n) (h : Block.commanded i b b') :
    ∃ op wb n, b' = b.startEngine op wb n := by
  rcases hi with ⟨wb, rfl⟩ | ⟨wb, n, rfl⟩ | ⟨n, rfl⟩ <;> rcases h with ⟨-, hb⟩ | ⟨hc, -⟩
  case inl.inr | inr.inl.inr | inr.inr.inr => simp [ho] at hc
  all_goals exact ⟨_, _, _, hb⟩

/-- Any other command's launch, and a bus command's on a closed bus, ends the command (R170, R172). -/
theorem Block.commanded_ends {i : Instr} {b b' : Block}
    (hno : ¬ (b.status.isOpen = true ∧
      ((∃ wb, i = .xferW wb) ∨ (∃ wb n, i = .xferWR wb n) ∨ ∃ n, i = .xferR n)))
    (h : Block.commanded i b b') : b'.ended := by
  cases i with
  | nop | busOpen | crcChk | clrstat => subst h; exact ⟨rfl, rfl, rfl⟩
  | busClose | convT | convRH => rcases h with ⟨-, rfl⟩ | ⟨-, rfl⟩ <;> exact ⟨rfl, rfl, rfl⟩
  | xferW | xferWR | xferR =>
    rcases h with ⟨ho, -⟩ | ⟨-, rfl⟩
    · exact absurd ⟨ho, by simp⟩ hno
    · exact ⟨rfl, rfl, rfl⟩

/-- Settles O8: an illegal word completes, a legal one starts the engine or ends, as its command's launch does. -/
theorem onlyBusCommandsOutliveTheirLaunch : Obligations.OnlyBusCommandsOutliveTheirLaunch := by
  intro s v hb
  obtain ⟨t, ht⟩ := launch_next v s
  refine ⟨t, (hostWriteAt_cmd_of_not_busy hb v).trans ht, ?_⟩
  rcases (launch_blk ht).2 with ⟨why, hd, hblk⟩ | ⟨i, hd, hc⟩
  · simp [hd, hblk]
  simp only [hd, Except.ok.injEq]
  refine ⟨(Block.commanded_frame hc).1, ?_⟩
  split
  · next hbus =>
    obtain ⟨op, wb, n, hstart⟩ := Block.commanded_starts (b := s.blk.launched v) hbus.1 hbus.2 hc
    rw [hstart]
    exact ⟨rfl, rfl, rfl⟩
  · next hno =>
    obtain ⟨hidle, hnb, hdone⟩ := Block.commanded_ends (b := s.blk.launched v) hno hc
    exact ⟨hnb, hdone, hidle⟩

/-- The engine does not write OVR (R171). -/
theorem engineStep_ovr (s : State) : (engineStep s).blk.status.ovr = s.blk.status.ovr := by
  rcases engineStep_blk_cases s with ⟨e, hblk⟩ | ⟨err, io, hblk⟩ | hblk <;> rw [hblk]
  · rfl
  · exact s.blk.deliver_ovr

/-- A command's launch leaves OVR alone unless it is CLRSTAT (R171, R176). -/
theorem Block.commanded_ovr {i : Instr} {b b' : Block} (h : Block.commanded i b b') :
    i = .clrstat ∨ b'.status.ovr = b.status.ovr := by
  cases i with
  | clrstat => exact .inl rfl
  | nop | busOpen | crcChk => subst h; exact .inr rfl
  | busClose | xferW | xferWR | xferR | convT | convRH => rcases h with ⟨-, rfl⟩ | ⟨-, rfl⟩ <;> exact .inr rfl

/-- Settles O9: each of the three registers' writes meets BUSY = 1 first; of all a step can do, only a launch of CLRSTAT
and reset clear the flag. -/
theorem writeWhileBusyOnlySetsOvr : Obligations.WriteWhileBusyOnlySetsOvr := by
  refine ⟨fun s off v hb hoff => ?_, fun s t hstep hset hclear => ?_⟩
  · rcases hoff with rfl | rfl | rfl
    · rw [hostWriteAt_of_offset (r := .ctrl) rfl, hostWrite, Block.writeCtrl, if_pos hb]
      rfl
    · rw [hostWriteAt_of_offset (r := .cmd) rfl, hostWrite, writeCmd, if_pos hb]
      rfl
    · rw [hostWriteAt_of_offset (r := .data) rfl, hostWrite, Block.writeData, if_pos hb]
      rfl
  have hne : t.blk.status.ovr ≠ s.blk.status.ovr := by simp [hset, hclear]
  rcases step_blk_cases hstep with ⟨rest, hr, -⟩ | hblk | hblk | ⟨-, hblk⟩ | ⟨-, -, v, hblk⟩ | ⟨-, v, hblk⟩ |
    ⟨v, s₀, hl, hs₀, hlaunch⟩
  · exact .inl ⟨rest, hr⟩
  · exact absurd (hblk ▸ engineStep_ovr s.turnTaken) hne
  · exact absurd (by rw [hblk]) hne
  · simp [hblk] at hclear
  iterate 2 exact absurd (by rw [hblk]) hne
  rcases (launch_blk hlaunch).2 with ⟨why, -, hblk⟩ | ⟨i, hi, hc⟩
  · exact absurd (by rw [hblk, hs₀]; rfl) hne
  rcases Block.commanded_ovr hc with rfl | hsame
  · obtain rfl := encode_of_decode_ok hi
    exact .inr hl
  · exact absurd (hsame.trans (by rw [hs₀]; rfl)) hne

end Sys2Proof.Machine
end

section
/-! PROOFS. A transaction on a sensor whose answers are known by its premises and not listed (45_bus_partner.md R200 to
R205): what one symbol makes of the registers, of the history and of what is heard in it. -/

namespace Sys2Proof.Machine

/-- While the master holds the bus, what is heard is the history (R230). -/
theorem State.heard_of_held {c : SensorCommands} {s : State} (hheld : s.bus.held = true) :
    s.heard c = Machine.heard c s.bus.trace := by simp [State.heard, hheld]

/-- A START on a released bus: a transaction that was cut off shows before it and with it alike (R230). -/
theorem heard_start {c : SensorCommands} {s : State} (hheld : s.bus.held = false) :
    Machine.heard c (s.bus.trace ++ [.sym .start]) = (s.heard c).begin := by
  rw [heard_append_one, Heard.next]
  cases hr : (Machine.heard c s.bus.trace).running <;> simp [State.heard, hr, hheld]

/-- A NACKed byte begins no reset window and cuts nothing off (R202). -/
theorem Heard.next_nack (c : SensorCommands) (h : Heard) (b : Byte) :
    (h.next c (.sym (.tx b .nack))).inResetWindow = h.inResetWindow ∧ (h.next c (.sym (.tx b .nack))).cut = h.cut := by
  rw [Heard.next]
  split <;> exact ⟨rfl, rfl⟩

/-- The sensor takes its address (R201); with a read address it begins to send a pending result (R205). -/
theorem Heard.next_address_ack (c : SensorCommands) {h : Heard} (hat : h.atAddress = true) (read : Bool) :
    h.next c (.sym (.tx (addressByte sensorAddress read) .ack)) =
      { h with
        atAddress := false
        selected := true
        sent := 0
        asked := if read && h.asked == .result then .sending else h.asked } := by
  rw [Heard.next, if_pos hat]
  cases read <;> rfl

/-- `s` in the middle of a transaction, SCL not held: the registers are those of `b`, the engine is at `e`, the history
is `n` events long and tells `h` of the sensor. -/
structure State.Amid (c : SensorCommands) (b : Block) (e : Eng) (n : Nat) (h : Heard) (s : State) : Prop where
  blk : s.blk = { b with eng := e }
  held : s.bus.held = true
  scl : s.partner.holdsScl = false
  place : s.place = n
  heard : s.heard c = h

section
variable {c : SensorCommands} {b : Block} {e : Eng} {n : Nat} {h : Heard} {s : State}

/-- A launched command is amid its transaction after its START (R102, R105). -/
theorem amid_launched (hscl : s.partner.holdsScl = false) (hheld : s.bus.held = false) (op : BitVec 4) (wb : Byte)
    (rlen : BitVec 2) :
    (engineStep { s with blk := s.blk.startEngine op wb rlen }).Amid c s.blk
      { (s.blk.startEngine op wb rlen).eng with left := s.blk.ctrl.retry, step := .addr } (s.place + 1)
      (s.heard c).begin := by
  rw [engineStep_launched hscl]
  exact ⟨rfl, rfl, hscl, by simp [State.place, State.said, asEvents],
    (State.heard_of_held rfl).trans (heard_start hheld)⟩

namespace State.Amid

theorem eng (hs : s.Amid c b e n h) : s.blk.eng = e := by rw [hs.blk]

/-- Using an answer up touches nothing of it. -/
theorem useAnswer (hs : s.Amid c b e n h) : s.useAnswer.Amid c b e n h := by
  obtain ⟨hblk, hheld, hscl, hplace, hheard⟩ := hs
  refine ⟨by simpa using hblk, by simpa using hheld, by simpa using hscl, ?_, ?_⟩
  · rwa [State.place, State.useAnswer_bus]
  · rwa [State.heard, State.useAnswer_bus]

/-- A symbol after which the master still holds the bus. -/
theorem emit (hs : s.Amid c b e n h) (y : Symbol) (e' : Eng) :
    ((s.emit y true).setEng e').Amid c b e' (n + 1) (h.next c (.sym y)) := by
  obtain ⟨hblk, hheld, hscl, rfl, rfl⟩ := hs
  refine ⟨by rw [State.setEng, State.emit_blk, hblk], rfl, hscl, by simp [State.place], ?_⟩
  rw [State.heard_of_held hheld, State.heard_of_held rfl, ← heard_append_one]
  rfl

section
variable (hs : s.Amid c b e n h) (hrun : e.phase = .run)
include hs hrun

/-- Amid a transaction the engine has a step, its next symbol (R103). -/
theorem engineStep_eq : engineStep s = s.engineSymbol :=
  engineStep_enabled ((engineEnabled_iff s).mpr ⟨by rw [hs.eng, hrun], hs.scl⟩)

/-- A repeated START (R105, R110). -/
theorem repStart (hstep : e.step = .start) (hrep : ¬ (e.seg = 0 ∧ e.why = .segment)) :
    (engineStep s).Amid c b { e with left := if e.why = .segment then e.retry else e.left, step := .addr } (n + 1)
      { h with atAddress := true, selected := false } := by
  rw [hs.engineStep_eq hrun, State.engineSymbol, hs.eng, hstep]
  simp only [State.engineStart, hs.eng, if_neg hrep]
  exact hs.emit .repStart _

/-- An address byte ACKed (R105). -/
theorem address_acked (hstep : e.step = .addr) (hans : s.answer.ack = .ack ∧ s.answer.arb = false) :
    (engineStep s).Amid c b e.dataPhase (n + 1)
      (h.next c (.sym (.tx (addressByte e.addr (isReadSegment e.op e.seg)) .ack))) := by
  have hack : s.txResult = .ack := (txResult_of_kept (.inr hans.2)).1 hans.1
  rw [hs.engineStep_eq hrun, State.engineSymbol, hs.eng, hstep]
  simp only [State.engineAddr, hack, hs.eng]
  exact hs.useAnswer.emit _ _

/-- An address byte NACKed (R108). -/
theorem address_nacked (hstep : e.step = .addr) (hans : s.answer.ack = .nack ∧ s.answer.arb = false) :
    (engineStep s).Amid c b e.addressNacked (n + 1)
      (h.next c (.sym (.tx (addressByte e.addr (isReadSegment e.op e.seg)) .nack))) := by
  have hnack : s.txResult = .nack := (txResult_of_kept (.inr hans.2)).2 hans.1
  rw [hs.engineStep_eq hrun, State.engineSymbol, hs.eng, hstep]
  simp only [State.engineAddr, hnack, hs.eng]
  exact hs.useAnswer.emit _ _

/-- A write byte ACKed (R105). -/
theorem byte_acked (hstep : e.step = .wdata) (hans : s.answer.ack = .ack ∧ s.answer.arb = false) :
    (engineStep s).Amid c b e.segmentDone (n + 1) (h.next c (.sym (.tx e.wbyte .ack))) := by
  have hack : s.txResult = .ack := (txResult_of_kept (.inr hans.2)).1 hans.1
  rw [hs.engineStep_eq hrun, State.engineSymbol, hs.eng, hstep]
  simp only [engineWdata_of_ack hack, hs.eng]
  exact hs.useAnswer.emit _ _

/-- A byte received (R105, R114). -/
theorem byte_received (hstep : e.step = .rdata) (harb : s.answer.arb = false) :
    (engineStep s).Amid c b (e.byteDone s.answer.byte) (n + 1) (h.receive s.answer.byte) := by
  rw [hs.engineStep_eq hrun, State.engineSymbol, hs.eng, hstep]
  simp only [State.engineRdata, rxResult_of_kept harb, hs.eng]
  exact hs.useAnswer.emit (.rx s.answer.byte _) _

/-- The STOP of an address byte NACKed too often (R108). -/
theorem stop_addrNack (hstep : e.step = .stop) (hwhy : e.why = .addrNack) :
    (engineStep s).blk = ({ b with eng := e } : Block).complete 3 1 := by
  rw [engineStep_of_stop (by rw [hs.eng, hrun]) hs.scl (by rw [hs.eng, hstep]),
    engineStop_of_addrNack (by rw [hs.eng, hwhy]), State.raise_blk, State.emit_blk, hs.blk]
  rfl

/-- The STOP of a read command's success: the bytes are delivered (R112), and the transaction is over. -/
theorem stop_read (hstep : e.step = .stop) (hwhy : e.why = .success) (hop : e.op = 0x4 ∨ e.op = 0x5) :
    (engineStep s).blk =
        ({ b with data := receivedPayload e, status := { b.status with nbytes := e.rlen }, eng := e } : Block).complete
          0 0 ∧
      (engineStep s).heard c = h.stop := by
  have hstop := (engineStep_of_stop (by rw [hs.eng, hrun]) hs.scl (by rw [hs.eng, hstep])).trans
    (engineStop_of_success (by rw [hs.eng, hwhy]))
  constructor
  · rw [hstop, State.complete_blk, hs.blk, Block.deliver_of_read hop]
  · have hnext : Machine.heard c (engineStep s).bus.trace = h.stop := by
      rw [hstop, ← hs.heard, State.heard_of_held hs.held]
      exact heard_append_one ..
    simp only [State.heard, hnext]
    rfl

end

/-- The STOP after all bytes of a read: they are delivered, and the transaction is over (R112). -/
theorem bytes_delivered {bs : List Byte} (hs : s.Amid c b (bs.foldl Eng.byteDone e) n h) (hrun : e.phase = .run)
    (hidx : e.idx = 0) (hn : e.rlen ≠ 0) (hlen : bs.length = e.rlen.toNat) (hop : e.op = 0x4 ∨ e.op = 0x5) :
    (∃ e', (engineStep s).blk =
        ({ b with data := payloadOf bs, status := { b.status with nbytes := e.rlen }, eng := e' } : Block).complete
          0 0) ∧
      (engineStep s).heard c = h.stop := by
  obtain ⟨hphase, hstop, hwhy, hop', hrlen, hpayload⟩ := Eng.foldl_byteDone hidx hn hlen
  obtain ⟨hend, hheard⟩ := hs.stop_read (hphase.trans hrun) hstop hwhy (by rwa [hop'])
  rw [hpayload, hrlen] at hend
  exact ⟨⟨_, hend⟩, hheard⟩

end State.Amid
end

end Sys2Proof.Machine
end

section
/-! PROOFS. An absent device: every address byte is NACKed until the budget is spent (45_bus_partner.md R201,
40_i2c_engine.md R108, R110). -/

namespace Sys2Proof.Machine

/-- One address byte at an absent device: it is NACKed, and the premise binds the next one too. -/
theorem State.Amid.absent_nacks {c : SensorCommands} {b : Block} {e : Eng} {n : Nat} {h : Heard} {s : State}
    (hs : s.Amid c b e n h) (hrun : e.phase = .run) (hstep : e.step = .addr) (haway : e.addr ≠ sensorAddress)
    (hwindow : h.inResetWindow = false) (hcut : h.cut = false) (habsent : AbsentIsNacked c s) :
    ∃ h', (engineStep s).Amid c b e.addressNacked (n + 1) h' ∧ h'.inResetWindow = false ∧ h'.cut = false := by
  obtain ⟨hwindow', hcut'⟩ := h.next_nack c (addressByte e.addr (isReadSegment e.op e.seg))
  refine ⟨_, hs.address_nacked hrun hstep (habsent ?_ ?_ ?_ ?_), hwindow'.trans hwindow, hcut'.trans hcut⟩
  · rw [hs.heard, hwindow]
  · rw [hs.heard, hcut]
  · rw [hs.eng, hstep]
  · rwa [hs.eng]

/-- The address phase at an absent device, by induction on the retries left. -/
theorem engineRun_absent {c : SensorCommands} {b : Block} (r : Nat) {n : Nat} {e : Eng} {h : Heard} {s : State}
    (hs : s.Amid c b e n h) (hrun : e.phase = .run) (hstep : e.step = .addr) (hleft : e.left.toNat = r)
    (haway : e.addr ≠ sensorAddress) (hwindow : h.inResetWindow = false) (hcut : h.cut = false)
    (habsent : ∀ k, AbsentIsNacked c (engineRun k s)) :
    ∃ e', (engineRun (2 + 2 * r) s).blk = ({ b with eng := e' } : Block).complete 3 1 := by
  induction r generalizing n e h s with
  | zero =>
    obtain ⟨h', hnacked, -⟩ := hs.absent_nacks hrun hstep haway hwindow hcut (habsent 0)
    rw [Eng.addressNacked, if_pos (BitVec.eq_of_toNat_eq hleft)] at hnacked
    exact ⟨_, hnacked.stop_addrNack hrun rfl rfl⟩
  | succ r ih =>
    obtain ⟨h', hnacked, hwindow', hcut'⟩ := hs.absent_nacks hrun hstep haway hwindow hcut (habsent 0)
    have hmore : e.left ≠ 0 := by intro hzero; simp [hzero] at hleft
    rw [Eng.addressNacked, if_neg hmore] at hnacked
    exact ih (hnacked.repStart hrun rfl (by simp)) hrun rfl (by simp; bv_omega) haway hwindow' hcut'
      fun k => habsent (k + 2)

/-- Settles O57: the three commands begin with the same address phase, and the START before it keeps what the premise
asks of the history. -/
theorem absentDeviceFailsTheCommand : Obligations.AbsentDeviceFailsTheCommand := by
  intro c s i ho hscl hheld haddr hwindow hcut hi
  obtain ⟨wb, n, hexec⟩ := exec_eq_launchBus s hi
  refine ⟨_, hexec.trans (congrArg Host.Outcome.next (launchBus_of_open ho ..)), fun habsent => ?_⟩
  obtain ⟨e', hend⟩ := engineRun_absent s.blk.ctrl.retry.toNat (amid_launched hscl hheld (opcode i) wb n) rfl rfl rfl
    haddr hwindow hcut fun k => habsent (k + 1)
  rw [show 3 + 2 * s.blk.ctrl.retry.toNat = 2 + 2 * s.blk.ctrl.retry.toNat + 1 by omega, engineRun, hend]
  exact ⟨rfl, rfl, rfl⟩

end Sys2Proof.Machine
end

section
/-! PROOFS. The bare read of a conforming sensor's result, and its conversion (45_bus_partner.md R203 to R205, R208,
42_convert.md R155, R156). -/

namespace Sys2Proof.Machine

/-- A payload corrupted is each of its bytes corrupted. -/
theorem payload_xor (a b c x y z : Byte) :
    payload (a ^^^ x) (b ^^^ y) (c ^^^ z) = payload a b c ^^^ payload x y z := by
  have hbytes := payload_bytes (payload a b c ^^^ payload x y z)
  have hxor (d e : BitVec 24) : byte0 (d ^^^ e) = byte0 d ^^^ byte0 e ∧ byte1 (d ^^^ e) = byte1 d ^^^ byte1 e ∧
      byte2 (d ^^^ e) = byte2 d ^^^ byte2 e :=
    ⟨BitVec.extractLsb'_xor, BitVec.extractLsb'_xor, BitVec.extractLsb'_xor⟩
  simpa [hxor] using hbytes

/-- A byte that is not the last: the engine goes on to receive the next one (R105). -/
theorem Eng.byteDone_of_more {e : Eng} (hmore : e.idx.toNat + 1 < e.rlen.toNat) (r : Byte) :
    (e.byteDone r).phase = e.phase ∧ (e.byteDone r).step = e.step ∧ (e.byteDone r).idx = e.idx + 1 ∧
      (e.byteDone r).rlen = e.rlen := by
  simp [Eng.byteDone, hmore, Eng.receive_eq]

/-- The byte of a result the sensor sends in the k-th place (R205). -/
def resultByte (d : BitVec 24) (k : Nat) : Byte :=
  if k = 0 then byte0 d else if k = 1 then byte1 d else byte2 d

/-- The three bytes as they arrive, the first at moment `n` (R205, R208). -/
def resultBytes (l : SensorLife) (number n : Nat) : List Byte :=
  [resultByte (l.result number) 0 ^^^ l.noise n, resultByte (l.result number) 1 ^^^ l.noise (n + 1),
    resultByte (l.result number) 2 ^^^ l.noise (n + 2)]

/-- They are delivered as the result, XORed with what corrupted them (R112, R208). -/
theorem payloadOf_resultBytes (l : SensorLife) (number n : Nat) :
    payloadOf (resultBytes l number n) =
      l.result number ^^^ payload (l.noise n) (l.noise (n + 1)) (l.noise (n + 2)) := by
  rw [resultBytes, payloadOf, payload_xor]
  congr 1
  exact payload_bytes _

/-- A byte of the result changes nothing of what is asked for (R205). -/
theorem Heard.receive_of_sending {h : Heard} (hasked : h.asked = .sending) (b : Byte) :
    h.receive b = { h with sent := h.sent + 1 } := by simp [Heard.receive, hasked]

/-- The sensor sends the result of its conversion `number`, and `k` of its bytes were received (R205). -/
structure Heard.Sends (number k : Nat) (h : Heard) : Prop where
  settled : h.settled = true
  selected : h.selected = true
  asked : h.asked = .sending
  sent : h.sent = k
  conversions : h.conversions = number

section
variable {c : SensorCommands} {l : SensorLife} {b : Block} {e : Eng} {n : Nat} {h : Heard} {s : State}
variable (hs : s.Amid c b e n h) (hrun : e.phase = .run)
include hs hrun

/-- Once the latency is past, the sensor takes its read address and begins to send (R204, R205). -/
theorem State.Amid.ready_acks (hconf : Conforms c l s) (hstep : e.step = .addr) (haddr : e.addr = sensorAddress)
    (hread : isReadSegment e.op e.seg = true) (hat : h.atAddress = true) (hset : h.settled = true)
    (hasked : h.asked = .result) (hover : h.conversionOver c = true) :
    ∃ h', (engineStep s).Amid c b e.dataPhase (n + 1) h' ∧ h'.Sends h.conversions 0 := by
  have hready : l.ready c s = true := hconf.latency (by rw [hs.heard, hasked]) (by rw [hs.heard, hover])
  have hans : s.answer.ack = .ack ∧ s.answer.arb = false := by
    refine hconf.ready ?_ ?_ ?_ ?_ hready
    · rw [hs.heard, hset]
    · simp [State.atSensor, hs.eng, hstep, haddr]
    · simp [State.atReadAddress, hs.eng, hstep, hread]
    · rw [hs.heard, hasked]
  have hacked := hs.address_acked hrun hstep hans
  rw [haddr, hread, Heard.next_address_ack c hat, hasked] at hacked
  exact ⟨_, hacked, hset, rfl, rfl, rfl, rfl⟩

/-- A byte of the result, as it arrives (R205, R208). -/
theorem State.Amid.result_received {number k : Nat} (hformat : ResultFormat c l s) (hstep : e.step = .rdata)
    (hsends : h.Sends number k) (hk : k < 3) :
    crcOk (l.result number) = true ∧ ∃ h',
      (engineStep s).Amid c b (e.byteDone (resultByte (l.result number) k ^^^ l.noise n)) (n + 1) h' ∧
        h'.Sends number (k + 1) := by
  obtain ⟨hset, hsel, hasked, hsent, hnumber⟩ := hsends
  have hpromised : crcOk (l.result number) = true ∧ s.answer.arb = false ∧
      s.answer.byte = resultByte (l.result number) k ^^^ l.noise n := by
    have hpremise := hformat (by rw [hs.heard, hset]) (by rw [hs.eng, hstep]) (by rw [hs.heard, hsel])
      (by rw [hs.heard, hasked]) (by rwa [hs.heard, hsent])
    rwa [SensorLife.payload, hs.heard, hs.place, hnumber, hsent] at hpremise
  obtain ⟨hok, harb, hbyte⟩ := hpromised
  have hreceived := hs.byte_received hrun hstep harb
  rw [Heard.receive_of_sending hasked, hbyte] at hreceived
  exact ⟨hok, _, hreceived, hset, hsel, hasked, congrArg (· + 1) hsent, hnumber⟩

/-- The three bytes of the result (R205). -/
theorem State.Amid.result_bytes_received {number : Nat} (hstep : e.step = .rdata) (hidx : e.idx = 0)
    (hrlen : e.rlen = 3) (hsends : h.Sends number 0) (hformat : ∀ k, k < 3 → ResultFormat c l (engineRun k s)) :
    crcOk (l.result number) = true ∧
      ∃ h', (engineRun 3 s).Amid c b ((resultBytes l number n).foldl Eng.byteDone e) (n + 3) h' := by
  obtain ⟨hok, h₁, hs₁, hsends₁⟩ := hs.result_received hrun (hformat 0 (by decide)) hstep hsends (by decide)
  obtain ⟨hrun₁, hstep₁, hidx₁, hrlen₁⟩ := Eng.byteDone_of_more (e := e) (by simp [hidx, hrlen])
    (resultByte (l.result number) 0 ^^^ l.noise n)
  rw [hrun] at hrun₁
  rw [hstep] at hstep₁
  obtain ⟨-, h₂, hs₂, hsends₂⟩ := hs₁.result_received hrun₁ (hformat 1 (by decide)) hstep₁ hsends₁ (by decide)
  obtain ⟨hrun₂, hstep₂, -⟩ := Eng.byteDone_of_more (by rw [hidx₁, hrlen₁, hidx, hrlen]; decide)
    (resultByte (l.result number) 1 ^^^ l.noise (n + 1))
  rw [hrun₁] at hrun₂
  rw [hstep₁] at hstep₂
  obtain ⟨-, h₃, hs₃, -⟩ := hs₂.result_received hrun₂ (hformat 2 (by decide)) hstep₂ hsends₂ (by decide)
  exact ⟨hok, h₃, hs₃⟩

/-- The three bytes of the result, and the STOP that delivers them (R112, R205). -/
theorem State.Amid.result_delivered {number : Nat} (hstep : e.step = .rdata) (hidx : e.idx = 0) (hrlen : e.rlen = 3)
    (hop : e.op = 0x4 ∨ e.op = 0x5) (hsends : h.Sends number 0)
    (hformat : ∀ k, k < 3 → ResultFormat c l (engineRun k s)) :
    crcOk (l.result number) = true ∧
      ∃ e', (engineRun 4 s).blk =
        ({ b with
            data := l.result number ^^^ payload (l.noise n) (l.noise (n + 1)) (l.noise (n + 2))
            status := { b.status with nbytes := 3 }
            eng := e' } : Block).complete 0 0 := by
  obtain ⟨hok, h', hread⟩ := hs.result_bytes_received hrun hstep hidx hrlen hsends hformat
  obtain ⟨⟨e', hend⟩, -⟩ := hread.bytes_delivered hrun hidx (by simp [hrlen]) (by rw [hrlen]; rfl) hop
  rw [payloadOf_resultBytes, hrlen] at hend
  exact ⟨hok, e', hend⟩

end

/-- What a conversion leaves where the check passes and where it fails (R155, R156). -/
theorem exec_conv_check {i : Instr} (hi : i = .convT ∨ i = .convRH) (s : State) :
    ∃ w, exec i s = .next w ∧
      (crcOk s.blk.data = true →
        w.blk.status.err = 0 ∧ w.blk.status.crcOk = true ∧ w.blk.raw = rawOf s.blk.data) ∧
      (crcOk s.blk.data = false → w.blk.status.err = 5) := by
  have hconv (k1 k2 : BitVec 64) :
      (crcOk s.blk.data = true → (s.convCommand k1 k2).blk.status.err = 0 ∧
        (s.convCommand k1 k2).blk.status.crcOk = true ∧ (s.convCommand k1 k2).blk.raw = rawOf s.blk.data) ∧
      (crcOk s.blk.data = false → (s.convCommand k1 k2).blk.status.err = 5) := by
    rcases convCommand_cases s k1 k2 with ⟨hok, heq⟩ | ⟨hbad, heq⟩ <;> rw [heq]
    · simp [hok]
    · simp [hbad]
  rcases hi with rfl | rfl
  exacts [⟨_, rfl, hconv kT1 kT2⟩, ⟨_, rfl, hconv kH1 kH2⟩]

/-- Settles O56: the premises give the ACK of the read address and each byte in turn, so the payload delivered is the
result XORed with the noise; the conversion then goes by its check. -/
theorem readySensorIsReadAndConverted : Obligations.ReadySensorIsReadAndConverted := by
  intro c l s ho hscl hheld haddr hset hasked hover
  refine ⟨_, congrArg Host.Outcome.next (launchBus_of_open ho ..), ?_⟩
  intro hconf u sent noise
  have hstarted := amid_launched (c := c) hscl hheld 0x5 0 3
  obtain ⟨h, haddressed, hsends⟩ := hstarted.ready_acks rfl (hconf 1 (by decide)) rfl haddr rfl rfl hset
    (by rw [Heard.begin_asked, hasked]; rfl) hover
  obtain ⟨hok, e, hend⟩ := haddressed.result_delivered rfl rfl rfl rfl (.inr rfl) hsends
    fun k hk => (hconf (k + 2) (by omega)).format
  have hu : u.blk = ({ s.blk with
      data := sent ^^^ noise, status := { s.blk.status with nbytes := 3 }, eng := e } : Block).complete 0 0 := hend
  have hdata : u.blk.data = sent ^^^ noise := by rw [hu]; rfl
  refine ⟨by rw [hu]; rfl, by rw [hu]; rfl, by rw [hu]; rfl, hdata, fun i hi => ?_⟩
  obtain ⟨w, hexec, hpass, hfail⟩ := exec_conv_check hi u
  rw [hdata] at hpass hfail
  refine ⟨w, hexec, fun hclean => ?_, hfail⟩
  have hsame : sent ^^^ noise = sent := by rw [hclean]; exact BitVec.xor_zero
  rw [hsame] at hpass
  exact hpass hok

end Sys2Proof.Machine
end

section
/-! PROOFS. RDUSER to a sensor that was reset: the read back of init, and the same read afterwards (45_bus_partner.md
R201, R202, R209, 44_host_sequences.md R183). -/

namespace Sys2Proof.Machine

/-- The sensor takes RDUSER's byte while no conversion may run (R202). -/
theorem Heard.next_readUser_ack {c : SensorCommands} (hown : c.readUser ∉ [c.softReset, c.trigT, c.trigRH]) {h : Heard}
    (hat : h.atAddress = false) (hsel : h.selected = true) (hwindow : h.inResetWindow = false)
    (hidle : h.mayConvert c = false) :
    h.next c (.sym (.tx c.readUser .ack)) = { h with asked := .user } := by
  simp only [List.mem_cons, List.not_mem_nil, or_false, not_or] at hown
  obtain ⟨hreset, htrigT, htrigRH⟩ := hown
  simp [Heard.next, hat, hsel, Heard.takeByte, hwindow, hidle, maxLatency, hreset, htrigT, htrigRH]

/-- 0x02 read back from a sensor that was reset (R183). -/
theorem Heard.receive_readBack {h : Heard} (hasked : h.asked = .user) (hsel : h.selected = true) (hsent : h.sent = 0)
    (hknown : h.known = true) : h.receive 0x02 = { h with sent := h.sent + 1, asked := .confirmed } := by
  simp [Heard.receive, Heard.readBack, hasked, hsel, hsent, hknown]

/-- The STOP after the read back: init has succeeded (R183, R184). -/
theorem Heard.stop_settled {h : Heard} (hasked : h.asked = .confirmed) (htelling : h.telling = false)
    (hwindow : h.inResetWindow = false) : h.stop.settled = true := by
  have hwindow' : h.stop.inResetWindow = false := by
    rw [← hwindow]
    simp [Heard.stop, Heard.endTransaction, Heard.inResetWindow, htelling]
  rw [Heard.settled, hwindow']
  simp [Heard.stop, hasked]

/-- What RDUSER's transaction keeps from its START to its STOP: the sensor's user register can be read, and init has
succeeded or not. -/
structure Heard.UserReadable (c : SensorCommands) (initDone : Bool) (h : Heard) : Prop where
  known : h.known = true
  window : h.inResetWindow = false
  idle : h.mayConvert c = false
  telling : h.telling = false
  settled : h.settled = initDone

/-- The sensor ACKs what RDUSER sends it: as drawn, or by the premises once init has succeeded (D49). -/
def AcksReadUser (c : SensorCommands) (initDone : Bool) (s : State) : Prop :=
  (s.blk.eng.step = .addr ∨ s.blk.eng.step = .wdata → s.answer.ack = .ack ∧ s.answer.arb = false) ∨
    (initDone = true ∧ AnswersAtItsAddress c s ∧ TakesItsCommands c s)

section
variable {c : SensorCommands} {l : SensorLife} {b : Block} {e : Eng} {n : Nat} {h : Heard} {s : State} {initDone : Bool}
variable (hs : s.Amid c b e n h) (hrun : e.phase = .run) (huser : h.UserReadable c initDone)
include hs hrun huser

/-- An address byte of RDUSER, of the write segment or, once the register is asked for, of the read segment (R201). -/
theorem State.Amid.user_address_acked (hacks : AcksReadUser c initDone s) (hstep : e.step = .addr)
    (haddr : e.addr = sensorAddress) (hat : h.atAddress = true)
    (hasks : isReadSegment e.op e.seg = false ∨ h.asked = .user) :
    ∃ h', (engineStep s).Amid c b e.dataPhase (n + 1) h' ∧ h'.UserReadable c initDone ∧ h'.atAddress = false ∧
      h'.selected = true ∧ h'.sent = 0 ∧ (h.asked = .user → h'.asked = .user) := by
  obtain ⟨hknown, hwindow, hidle, htelling, hsettled⟩ := huser
  have hans : s.answer.ack = .ack ∧ s.answer.arb = false := by
    rcases hacks with hdrawn | ⟨hinit, haddress, -⟩
    · exact hdrawn (.inl (by rw [hs.eng, hstep]))
    · refine haddress (by rw [hs.heard, hsettled, hinit]) (by simp [State.atSensor, hs.eng, hstep, haddr]) ?_
      refine hasks.imp (fun hw => ?_) fun hasked => ?_
      · simp [State.atReadAddress, hs.eng, hstep, hw]
      · rw [hs.heard]
        exact ⟨hasked, hknown⟩
  have hacked := hs.address_acked hrun hstep hans
  rw [haddr, Heard.next_address_ack c hat] at hacked
  exact ⟨_, hacked, ⟨hknown, hwindow, hidle, htelling, hsettled⟩, rfl, rfl, rfl, fun hasked => by simp [hasked]⟩

/-- RDUSER's command byte (R202). -/
theorem State.Amid.readUser_acked (hown : c.readUser ∉ [c.softReset, c.trigT, c.trigRH])
    (hacks : AcksReadUser c initDone s) (hstep : e.step = .wdata) (hbyte : e.wbyte = c.readUser)
    (hat : h.atAddress = false) (hsel : h.selected = true) :
    ∃ h', (engineStep s).Amid c b e.segmentDone (n + 1) h' ∧ h'.UserReadable c initDone ∧ h'.asked = .user := by
  obtain ⟨hknown, hwindow, hidle, htelling, hsettled⟩ := huser
  have hans : s.answer.ack = .ack ∧ s.answer.arb = false := by
    rcases hacks with hdrawn | ⟨hinit, -, htakes⟩
    · exact hdrawn (.inr (by rw [hs.eng, hstep]))
    · exact htakes (by rw [hs.heard, hsettled, hinit]) (by rw [hs.eng, hstep]) (by rw [hs.heard, hsel])
        (by simp [hs.eng, hbyte])
  have hacked := hs.byte_acked hrun hstep hans
  rw [hbyte, Heard.next_readUser_ack hown hat hsel hwindow hidle] at hacked
  exact ⟨_, hacked, ⟨hknown, hwindow, hidle, htelling, hsettled⟩, rfl⟩

/-- The user register, the one byte RDUSER reads, as it arrives (R202, R208). -/
theorem State.Amid.user_received (hregister : UserRegisterReset c l s) (hstep : e.step = .rdata)
    (hsel : h.selected = true) (hasked : h.asked = .user) (hsent : h.sent = 0) :
    (engineStep s).Amid c b ([0x02 ^^^ l.noise n].foldl Eng.byteDone e) (n + 1) (h.receive (0x02 ^^^ l.noise n)) := by
  obtain ⟨hbyte, harb⟩ := hregister (by rw [hs.heard, huser.window]) (by rw [hs.heard, huser.known])
    (by rw [hs.eng, hstep]) (by rw [hs.heard, hsel]) (by rw [hs.heard, hasked]) (by rw [hs.heard, hsent])
  rw [← hs.place, ← hbyte]
  exact hs.place ▸ hs.byte_received hrun hstep harb

end

/-- RDUSER up to the address byte of its read segment. -/
theorem engineRun_readUser_asked {c : SensorCommands} {s : State} (hscl : s.partner.holdsScl = false)
    (hheld : s.bus.held = false) (haddr : s.blk.ctrl.addr = sensorAddress)
    (hown : c.readUser ∉ [c.softReset, c.trigT, c.trigRH]) (hknown : (s.heard c).known = true)
    (hwindow : (s.heard c).inResetWindow = false) (hidle : (s.heard c).mayConvert c = false)
    (hacks : ∀ k, k ≤ 6 →
      AcksReadUser c (s.heard c).settled (engineRun k { s with blk := s.blk.startEngine 0x4 c.readUser 1 })) :
    ∃ h, (engineRun 4 { s with blk := s.blk.startEngine 0x4 c.readUser 1 }).Amid c s.blk
        { (s.blk.startEngine 0x4 c.readUser 1).eng with left := s.blk.ctrl.retry, seg := 1, step := .addr }
        (s.place + 4) h ∧
      h.UserReadable c (s.heard c).settled ∧ h.atAddress = true ∧ h.asked = .user := by
  have hstarted := amid_launched (c := c) hscl hheld 0x4 c.readUser 1
  obtain ⟨h₂, hs₂, huser₂, hat₂, hsel₂, -⟩ := hstarted.user_address_acked rfl ⟨hknown, hwindow, hidle, rfl, rfl⟩
    (hacks 1 (by decide)) rfl haddr rfl (.inl rfl)
  obtain ⟨h₃, hs₃, huser₃, hasked₃⟩ := hs₂.readUser_acked rfl huser₂ hown (hacks 2 (by decide)) rfl rfl hat₂ hsel₂
  have hs₄ := hs₃.repStart rfl rfl fun hfirst => absurd hfirst.1 (show ¬ (1#1 = 0) by decide)
  obtain ⟨hknown₃, hwindow₃, hidle₃, htelling₃, hsettled₃⟩ := huser₃
  exact ⟨_, hs₄, ⟨hknown₃, hwindow₃, hidle₃, htelling₃, hsettled₃⟩, rfl, hasked₃⟩

/-- Settles O58: both sets of premises ACK RDUSER's three bytes, and the register is read back by the premise they
share. -/
theorem resetSensorGivesItsUserRegister : Obligations.ResetSensorGivesItsUserRegister := by
  intro c l s ho hscl hheld haddr hown hknown hwindow hidle
  refine ⟨_, congrArg Host.Outcome.next (launchBus_of_open ho ..), ?_⟩
  intro hpremises u
  have hregister (k : Nat) (hk : k ≤ 6) :
      UserRegisterReset c l (engineRun k { s with blk := s.blk.startEngine 0x4 c.readUser 1 }) :=
    hpremises.elim (fun hdrawn => (hdrawn k hk).1) fun hconf => (hconf.2 k hk).1.register
  have hacks (k : Nat) (hk : k ≤ 6) :
      AcksReadUser c (s.heard c).settled (engineRun k { s with blk := s.blk.startEngine 0x4 c.readUser 1 }) :=
    hpremises.imp (fun hdrawn => (hdrawn k hk).2) fun hconf =>
      ⟨hconf.1, (hconf.2 k hk).1.address, (hconf.2 k hk).2⟩
  obtain ⟨h₄, hs₄, huser₄, hat₄, hasked₄⟩ := engineRun_readUser_asked hscl hheld haddr hown hknown hwindow hidle hacks
  obtain ⟨h₅, hs₅, huser₅, -, hsel₅, hsent₅, hasked₅⟩ := hs₄.user_address_acked rfl huser₄ (hacks 4 (by decide))
    rfl haddr hat₄ (.inr hasked₄)
  have hs₆ := hs₅.user_received rfl huser₅ (hregister 5 (by decide)) rfl hsel₅ (hasked₅ hasked₄) hsent₅
  obtain ⟨⟨e, hend⟩, hheard⟩ := hs₆.bytes_delivered rfl rfl (show 1#2 ≠ 0 by decide) rfl (.inl rfl)
  have hu : u.blk = ({ s.blk with
      data := payload (0x02 ^^^ l.noise (s.place + 5)) 0 0, status := { s.blk.status with nbytes := 1 },
      eng := e } : Block).complete 0 0 := hend
  refine ⟨by rw [hu]; rfl, by rw [hu]; rfl, by rw [hu]; rfl, by rw [hu]; rfl, fun hclean => ?_⟩
  have hconfirmed := Heard.receive_readBack (hasked₅ hasked₄) hsel₅ hsent₅ huser₅.known
  have hdone : u.heard c = (h₅.receive (0x02 ^^^ l.noise (s.place + 5))).stop := hheard
  rw [hdone, hclean, show (0x02 ^^^ 0 : Byte) = 0x02 from rfl, hconfirmed]
  exact Heard.stop_settled rfl huser₅.telling huser₅.window

end Sys2Proof.Machine
end

section
/-! PROOFS. The completion codes: which of them a command's launch, the engine and a step can leave in STATUS
(60_exceptions.md R210, R211, R216). -/

namespace Sys2Proof

/-- The ERR codes a command can complete with in its launch (R211, R213, R215); IOCODE is then 0. -/
def Instr.launchErrs : Instr → List (BitVec 4)
  | .nop | .busOpen | .crcChk | .clrstat => [0]
  | .busClose => [0, 6]
  | .convT | .convRH => [0, 5]
  | .xferW _ | .xferWR _ _ | .xferR _ => [6]

theorem Instr.launchErrs_subset (i : Instr) : i.launchErrs ⊆ [0, 5, 6] := by
  cases i <;> simp [Instr.launchErrs]

namespace Machine

/-- A command's launch leaves STATUS as it is with the engine running, or completes with one of the command's codes. -/
theorem Block.commanded_outcome {i : Instr} {b b' : Block} (h : Block.commanded i b b') :
    (b'.eng.phase = .run ∧ b'.status = b.status) ∨
      (b'.status.err ∈ i.launchErrs ∧ b'.status.iocode = 0) := by
  cases i with
  | nop | busOpen | crcChk | clrstat => subst h; exact .inr ⟨List.mem_singleton_self 0, rfl⟩
  | busClose | convT | convRH => rcases h with ⟨-, rfl⟩ | ⟨-, rfl⟩ <;> exact .inr ⟨by simp [Instr.launchErrs], rfl⟩
  | xferW | xferWR | xferR =>
    rcases h with ⟨-, rfl⟩ | ⟨-, rfl⟩
    · exact .inl ⟨rfl, rfl⟩
    · exact .inr ⟨List.mem_singleton_self 6, rfl⟩

/-- An engine step leaves the phase and STATUS as they are, or completes: with success, or with BusIOError and the
IOCODE of the STOP's cause or of a lost arbitration (R108, R109, R111, R112). -/
theorem engineStep_outcome (s : State) :
    let t := (engineStep s).blk;
    (t.eng.phase = s.blk.eng.phase ∧ t.status = s.blk.status) ∨ (t.status.err = 0 ∧ t.status.iocode = 0) ∨
      (t.status.err = 3 ∧ (t.status.iocode = 1 ∨
        (t.status.iocode = 2 ∧ s.blk.eng.step = .stop ∧ s.blk.eng.why = .dataNack) ∨
        (t.status.iocode = 3 ∧ s.cfg.arbPossible = true))) := by
  cases he : s.engineEnabled with
  | false => rw [engineStep_disabled he]; exact .inl ⟨rfl, rfl⟩
  | true =>
    rw [engineStep_enabled he]
    rcases engineSymbol_cases s with ⟨e, y, hblk, hph, -⟩ | ⟨y, hblk, harb, -⟩ |
      ⟨hstop, -, ⟨-, hblk⟩ | ⟨hwhy, hblk⟩ | ⟨-, -, hblk⟩⟩ <;> rw [hblk]
    · exact .inl ⟨hph, rfl⟩
    · exact .inr (.inr ⟨rfl, .inr (.inr ⟨rfl, harb⟩)⟩)
    · exact .inr (.inr ⟨rfl, .inl rfl⟩)
    · exact .inr (.inr ⟨rfl, .inr (.inl ⟨rfl, hstop, hwhy⟩)⟩)
    · exact .inr (.inl ⟨rfl, rfl⟩)

/-- A placed engine's STOP after a NACKed byte belongs to a command that writes one (R109). -/
theorem Eng.op_ne_of_dataNack {e : Eng} (hp : e.placed) (hs : e.step = .stop) (hw : e.why = .dataNack) :
    e.op ≠ 0x5 := by
  obtain ⟨-, -, hat⟩ := hp
  have hwrite : isReadSegment e.op e.seg = false := by simpa [hs, hw] using hat
  intro hop
  simp [isReadSegment, hop] at hwrite

/-- Settles O10: the launch by `Block.commanded_outcome`, the engine by `engineStep_outcome`; the invariant rules out a
NACKed byte of XFER.R, which writes none. -/
theorem outcomesOfEachCommand : Obligations.OutcomesOfEachCommand := by
  refine ⟨fun s t v hb hw hidle => ?_, fun s hinv hrun hidle => ?_⟩
  · rw [hostWriteAt_cmd_of_not_busy hb] at hw
    rcases (launch_blk hw).2 with ⟨why, hd, hblk⟩ | ⟨i, hd, hc⟩
    · simp [hd, hblk]
    have hout : t.blk.status.err ∈ i.launchErrs ∧ t.blk.status.iocode = 0 :=
      (Block.commanded_outcome hc).resolve_left fun h => by simp [hidle] at h
    rw [hd]
    cases i <;> simpa [Instr.launchErrs] using hout
  · rcases engineStep_outcome s with ⟨hph, -⟩ | hok | ⟨herr, hio | ⟨hio, hstop, hwhy⟩ | harb⟩
    · rw [hph, hrun] at hidle
      cases hidle
    · exact .inl hok
    · exact .inr (.inl ⟨herr, hio⟩)
    · exact .inr (.inr (.inl ⟨herr, hio, Eng.op_ne_of_dataNack (hinv.runPlaced hrun) hstop hwhy⟩))
    · exact .inr (.inr (.inr ⟨herr, harb⟩))

/-- The codes a launch leaves in STATUS, whatever the word: those of R170, or those of a completion. -/
theorem launch_outcome {v : Word} {s t : State} (h : launch v s = .next t) :
    (t.blk.status.err = 0 ∨ t.blk.status.err = 5 ∨ t.blk.status.err = 6 ∨ t.blk.status.err = 7) ∧
      t.blk.status.iocode = 0 := by
  rcases (launch_blk h).2 with ⟨why, -, hblk⟩ | ⟨i, -, hc⟩
  · simp [hblk]
  rcases Block.commanded_outcome hc with ⟨-, hstatus⟩ | ⟨herr, hio⟩
  · simp [hstatus]
  · have hcode : t.blk.status.err = 0 ∨ t.blk.status.err = 5 ∨ t.blk.status.err = 6 := by
      simpa using i.launchErrs_subset herr
    exact ⟨by tauto, hio⟩

/-- Settles O11: of all a step can do, only reset, an engine step and a launch write the codes. -/
theorem reservedCodesAreNeverProduced : Obligations.ReservedCodesAreNeverProduced := by
  intro s t hstep
  rcases step_blk_cases hstep with ⟨rest, -, hblk⟩ | hblk | hblk | ⟨-, hblk⟩ | ⟨-, -, v, hblk⟩ | ⟨-, v, hblk⟩ |
    ⟨v, s₀, -, -, hlaunch⟩
  · rw [hblk]
    exact ⟨.inr (.inl rfl), .inr (by decide)⟩
  · rw [hblk]
    rcases engineStep_outcome s.turnTaken with ⟨-, hsame⟩ | ⟨herr, hio⟩ | ⟨herr, hio | ⟨hio, -⟩ | ⟨hio, -⟩⟩
    · rw [hsame]; exact ⟨.inl rfl, .inl rfl⟩
    all_goals simp [herr, hio]
  iterate 4 rw [hblk]; exact ⟨.inl rfl, .inl rfl⟩
  obtain ⟨herr, hio⟩ := launch_outcome hlaunch
  exact ⟨by tauto, .inr (by simp [hio])⟩

end Machine
end Sys2Proof
end

section
/-! PROOFS. The errors of a launch, with all that they leave alone: IllegalCommand, Closed and ChecksumError
(60_exceptions.md R212, R213, R215). -/

namespace Sys2Proof.Machine

/-- A command that completes in its launch leaves BUSY and the engine as the launch found them (R170, R172). -/
theorem State.launched_complete {s : State} (hb : s.blk.status.busy = false) (hp : s.blk.eng.phase = .idle) (v : Word)
    (err : BitVec 4) :
    (s.launched v).complete err 0 =
      { s with blk := { s.blk with
          cmd := v
          status := { s.blk.status with isDone := true, err := err, iocode := 0, nbytes := 0 } } } := by
  have heng : { s.blk.eng with phase := .idle } = s.blk.eng := by rw [← hp]
  have hstatus : s.blk.status.launched.completed err 0 =
      { s.blk.status with isDone := true, err := err, iocode := 0, nbytes := 0 } := by
    rw [Status.completed, Status.launched, ← hb]
  calc (s.launched v).complete err 0
      = { s with blk := { s.blk with
            cmd := v, status := s.blk.status.launched.completed err 0, eng := { s.blk.eng with phase := .idle } } } := rfl
    _ = _ := by rw [heng, hstatus]

theorem launch_of_decode_error {v : Word} {why : Illegal} (hd : decode v = .error why) (s : State) :
    launch v s = .next ((s.launched v).raise .illegalCommand 0) := by simp only [launch, hd]

/-- Settles O6: the launch of an illegal word is a completion. -/
theorem illegalWordCompletesWithErr7 : Obligations.IllegalWordCompletesWithErr7 := by
  intro s v why hb hp hd
  have hlaunch : launch v s = .next ((s.launched v).complete 7 0) := launch_of_decode_error hd s
  rw [hostWriteAt_cmd_of_not_busy hb, hlaunch, State.launched_complete hb hp]

theorem launchBus_of_closed {s : State} (hc : s.blk.status.isOpen = false) (op : BitVec 4) (wb : Byte) (n : BitVec 2) :
    s.launchBus op wb n = s.complete 6 0 := if_neg (Bool.eq_false_iff.mp hc)

/-- On a closed bus CLOSE and the bus commands do nothing but complete with Closed (R213). -/
theorem exec_of_closed {s : State} {i : Instr} (hc : s.blk.status.isOpen = false)
    (hi : i = .busClose ∨ (∃ wb, i = .xferW wb) ∨ (∃ wb n, i = .xferWR wb n) ∨ ∃ n, i = .xferR n) :
    exec i s = .next (s.complete 6 0) := by
  rcases hi with rfl | ⟨wb, rfl⟩ | ⟨wb, n, rfl⟩ | ⟨n, rfl⟩
  · exact congrArg Host.Outcome.next (if_neg (Bool.eq_false_iff.mp hc))
  all_goals exact congrArg Host.Outcome.next (launchBus_of_closed hc ..)

/-- Settles O7: the launch leaves OPEN as it is, so the command finds the bus closed and completes. -/
theorem closedBusRejectsBusCommands : Obligations.ClosedBusRejectsBusCommands := by
  intro s v i hb hp hc hd hi
  rw [hostWriteAt_cmd_runs hb hd, exec_of_closed (s := s.launched v) hc hi, State.launched_complete hb hp]

theorem convCommand_of_bad_crc {s : State} (hbad : crcOk s.blk.data = false) (k1 k2 : BitVec 64) :
    s.convCommand k1 k2 = { s with blk := s.blk.checkCrc.complete 5 0 } :=
  (convCommand_cases s k1 k2).elim (fun h => absurd h.1 (by simp [hbad])) And.right

/-- Settles O18: where the check fails, CRC_OK is 0 and the conversion only completes. -/
theorem badChecksumIsNeverConverted : Obligations.BadChecksumIsNeverConverted := by
  refine fun s => ⟨fun hbad i hi => ?_, fun hok i hi => ?_, ⟨_, crcChkWritesCrcOk s, rfl⟩⟩
  · have hcheck : s.blk.checkCrc = { s.blk with status := { s.blk.status with crcOk := false } } := by
      rw [← hbad]; rfl
    have hconv (k1 k2 : BitVec 64) : s.convCommand k1 k2 =
        { s with blk := ({ s.blk with status := { s.blk.status with crcOk := false } } : Block).complete 5 0 } := by
      rw [convCommand_of_bad_crc hbad, hcheck]
    rcases hi with rfl | rfl
    · exact congrArg Host.Outcome.next (hconv kT1 kT2)
    · exact congrArg Host.Outcome.next (hconv kH1 kH2)
  · obtain ⟨t, ht, hvalid, -⟩ := exec_conv_check hi s
    exact ⟨t, ht, (hvalid hok).1⟩

end Sys2Proof.Machine
end

section
/-! PROOFS. The block reset: the values it leaves, its move at any time, and the command hung on a held SCL that only it
ends (70_reset_and_hazards.md R230, R231). -/

namespace Sys2Proof.Machine

/-- Settles O37: every value is a literal of `State.reset`, CTRL's and STATUS's words put together from their fields. -/
theorem resetValues : Obligations.ResetValues := by
  unfold Obligations.ResetValues
  decide

/-- Settles O59: the reset block is at rest, the lines are released and the host has written no variable. -/
theorem resetMeetsTheInvariant : Obligations.ResetMeetsTheInvariant :=
  .of_atRest (Block.reset_atRest _) rfl ⟨.nil, fun _ hp => absurd hp List.not_mem_nil⟩

/-- While the partner holds SCL the engine stands still (R106). -/
theorem engineStep_of_holdsScl {s : State} (hscl : s.partner.holdsScl = true) : engineStep s = s :=
  engineStep_disabled ((engineEnabled_eq_false_iff s).mpr (.inr hscl))

/-- Settles O38: a reset turn is `blockReset`. Of what else a step can do, the engine stands still, and every write that
changes more than OVR needs BUSY = 0. -/
theorem blockResetAtAnyTime : Obligations.BlockResetAtAnyTime := by
  refine ⟨fun s rest hreset => step_of_turns_cons hreset, fun s t hbusy hscl hno hstep => ?_⟩
  have hrunning : s.blk.status.busy ≠ false := by simp [hbusy]
  rcases step_blk_cases hstep with ⟨rest, hreset, -⟩ | hengine | hsame | ⟨-, hoverrun⟩ | ⟨hnb, -⟩ | ⟨hnb, -⟩ |
    ⟨v, s₀, hlaunches, -⟩
  · exact absurd hreset (hno rest)
  · rwa [hengine, engineStep_of_holdsScl (s := s.turnTaken) hscl]
  · rwa [hsame]
  · rwa [hoverrun]
  · exact absurd hnb hrunning
  · exact absurd hnb hrunning
  · exact absurd hlaunches.1 hrunning

end Sys2Proof.Machine
end
